-- ==== Sys2Proof/Word.lean ====
section
/-! DEFINITION. The word and byte types of the engine register bus and of the picture buffer
(spec/00_scope.md R10, R12, R13), and the plainest arithmetic on them. -/

namespace Sys2Proof

/-- A register word: every register and every value written is 32 bits wide (R10, D3). -/
abbrev Word := BitVec 32

/-- A byte of the coded picture buffer or a quantisation matrix entry (R10, R51). -/
abbrev Byte := BitVec 8

/-- `mod32 x` is the word `x mod 2^32` (R13). -/
abbrev mod32 (x : Nat) : Word := BitVec.ofNat 32 x

/-- `zext_32`: a narrower unsigned field as a word (R12). -/
abbrev zext32 {w : Nat} (x : BitVec w) : Word := x.setWidth 32

end Sys2Proof
end

