-- ==== Sys2Proof/Syntax.lean ====
section
/-! DEFINITION. The operations of the DFE as plain syntax: one constructor of `Instr` for each row of
spec/opcode_table.json, carrying the fields of the row's word (spec/30_encoding.md R70 to R86). -/

namespace Sys2Proof

/-- The twenty engine registers, by the name of their offset parameter (10_state.md R35). -/
inductive Reg where
  | mode | iq | mbSize | frameSize | picHdr | prime
  | fwdLuma | fwdChroma | bwdLuma | bwdChroma
  | recLuma | recChroma | rotLuma | rotChroma
  | vldOffset | vldLen | vldEnd | vldAddr
  | trigger | status
deriving DecidableEq, Repr

/-- The registers in the order of R9's list. -/
def Reg.all : List Reg :=
  [.mode, .iq, .mbSize, .frameSize, .picHdr, .prime, .fwdLuma, .fwdChroma, .bwdLuma, .bwdChroma,
   .recLuma, .recChroma, .rotLuma, .rotChroma, .vldOffset, .vldLen, .vldEnd, .vldAddr, .trigger, .status]

/-- The place of a register in R9's list. -/
def Reg.index : Reg → Fin 20
  | .mode => 0 | .iq => 1 | .mbSize => 2 | .frameSize => 3 | .picHdr => 4 | .prime => 5
  | .fwdLuma => 6 | .fwdChroma => 7 | .bwdLuma => 8 | .bwdChroma => 9
  | .recLuma => 10 | .recChroma => 11 | .rotLuma => 12 | .rotChroma => 13
  | .vldOffset => 14 | .vldLen => 15 | .vldEnd => 16 | .vldAddr => 17
  | .trigger => 18 | .status => 19

/-- The profile of a request (00_scope.md R8). -/
inductive Profile where
  | mpeg1 | mpeg2
deriving DecidableEq, Repr

/-- The fifteen fields of the picture-header word, at their widths (R75; 10_state.md R24, R39). -/
structure PicHdr where
  pictureCodingType : BitVec 4
  fCode00 : BitVec 4
  fCode01 : BitVec 4
  fCode10 : BitVec 4
  fCode11 : BitVec 4
  intraDcPrecision : BitVec 2
  pictureStructure : BitVec 2
  topFieldFirst : BitVec 1
  framePredFrameDct : BitVec 1
  concealmentMotionVectors : BitVec 1
  qScaleType : BitVec 1
  intraVlcFormat : BitVec 1
  alternateScan : BitVec 1
  fullPelForwardVector : BitVec 1
  fullPelBackwardVector : BitVec 1
deriving DecidableEq, Repr

/-- The operations of spec/opcode_table.json, one constructor per row, in the table's order. The
operands are the fields of the operation's word; for the two read-modify-writes, the word read (R82,
R91); for `wait`, the expected-event count (R83). -/
inductive Instr where
  /-- `SC_QUALIFYING`: a start code whose marker qualifies (R71, R101, R102). -/
  | scQualifying (m : Byte)
  /-- `SC_NONQUALIFYING`: a start code whose marker does not qualify (R71, R101, R104). -/
  | scNonqualifying (m : Byte)
  /-- `MODE_ENTER`: `REG_MODE[3:0] <- 0`, where `r` is the word read (R82, R151). -/
  | modeEnter (r : Word)
  /-- `IQ_INTRA(i)`: tag `64 + i`, matrix entry `value` (R72, R152). -/
  | iqIntra (i : BitVec 6) (value : Byte)
  /-- `IQ_NONINTRA(i)`: tag `i`, matrix entry `value` (R72, R153). -/
  | iqNonintra (i : BitVec 6) (value : Byte)
  /-- `SIZE_MB`: the macroblock counts (R73, R154). -/
  | sizeMb (widthMb heightMb : BitVec 8)
  /-- `SIZE_PX`: the rounded-up pixel sizes (R74, R155). -/
  | sizePx (widthPx heightPx : BitVec 12)
  /-- `PIC_HDR`: the fields of the word written (R75, R156). -/
  | picHdr (h : PicHdr)
  /-- `PRIME` (R81, R157). -/
  | prime
  /-- `FWD_LUMA` (R76, R160). -/
  | fwdLuma (addr : Word)
  /-- `FWD_CHROMA` (R76, R161). -/
  | fwdChroma (addr : Word)
  /-- `BWD_LUMA` (R76, R162). -/
  | bwdLuma (addr : Word)
  /-- `BWD_CHROMA` (R76, R163). -/
  | bwdChroma (addr : Word)
  /-- `REC_LUMA` (R76, R164). -/
  | recLuma (addr : Word)
  /-- `REC_CHROMA` (R76, R165). -/
  | recChroma (addr : Word)
  /-- `ROT_LUMA` (R76, R166). -/
  | rotLuma (addr : Word)
  /-- `ROT_CHROMA` (R76, R167). -/
  | rotChroma (addr : Word)
  /-- `VLD_OFFSET`: the start offset in bits (R77, R168). -/
  | vldOffset (bits : Word)
  /-- `VLD_LEN`: the payload length in bits (R78, R169). -/
  | vldLen (bits : Word)
  /-- `VLD_END`: the physical address of the buffer's last byte (R79, R170). -/
  | vldEnd (addr : Word)
  /-- `VLD_ADDR`: the encoded base (R80, R171). -/
  | vldAddr (word : Word)
  /-- `TRIGGER` (R81, R172). -/
  | trigger (profile : Profile)
  /-- `WAIT(n)` (R83, R173). -/
  | wait (n : Nat)
  /-- `STATUS_CLEAR` (R81, R174). -/
  | statusClear
  /-- `MODE_EXIT`: `REG_MODE[3:0] <- MODE_IDLE`, where `r` is the word read (R82, R175). -/
  | modeExit (r : Word)
deriving DecidableEq, Repr

/-- A surface: the address of its luma plane and the distance to its chroma plane (10_state.md R25).
Addresses are naturals (entry 3). -/
structure Surface where
  va : Nat
  planeSize : Nat
deriving DecidableEq, Repr

/-- A transaction request, with the fields of R24's table at their types; the ranges of `width`,
`height` and `len` are checked by `Request.wf`. -/
structure Request where
  profile : Profile
  hdr : PicHdr
  intraQ : Vector Byte 64
  nonIntraQ : Vector Byte 64
  forwardRef : Option Nat
  backwardRef : Option Nat
  width : Nat
  height : Nat
  output : Surface
  bufVa : Nat
  len : Nat
deriving DecidableEq, Repr

end Sys2Proof
end

