-- ==== Sys2Proof/Config.lean ====
section
/-! DEFINITION. What the spec leaves to an implementation: the named parameters of spec/00_scope.md R9
(opaque constants: nothing can prove a value of one), the constraints the spec sets on them
(92_eei_decisions.md D2, D6, D10), and the model's free values (10_state.md R27, 60_exceptions.md
R204). -/

namespace Sys2Proof.Config

/-- The placement of the registers: any permutation of the word-aligned 32-bit offsets. The twenty
`REG_*` offsets are its first twenty values, so every assignment of pairwise distinct multiples of 4
is one of these and no other is (D2). -/
opaque offsetPerm : Equiv.Perm (Fin 1073741824)

/-- `REG_*`: the byte offset of a register in the engine's control block (R9, R52). -/
def offset (r : Reg) : Word :=
  mod32 (4 * (offsetPerm (Fin.castLE (by decide) r.index)).val)

/-- `PRIME_VALUE` (D4). -/
opaque primeValue : Word

/-- `MPEG1_PIC_HDR_OR` (D5). -/
opaque mpeg1PicHdrOr : Word

/-- `TRIGGER_MPEG1` (D6). -/
opaque triggerMpeg1 : Word

/-- How far `TRIGGER_MPEG2` lies above `TRIGGER_MPEG1`, less one, so that the two differ (D6). -/
opaque triggerGap : Fin 4294967295

/-- `TRIGGER_MPEG2`: any word but `TRIGGER_MPEG1` (D6, R81). -/
def triggerMpeg2 : Word := triggerMpeg1 + mod32 (triggerGap.val + 1)

/-- `MODE_IDLE` (D7); it may be 0. -/
opaque modeIdle : BitVec 4

/-- `STATUS_CLEAR_VALUE` (D8). -/
opaque statusClearValue : Word

/-- `VLD_ADDR_ENCODE` (D9). -/
opaque vldAddrEncode : Word → Word

/-- `VBV_CAPACITY` less one. -/
opaque vbvCapacityPred : Fin 536870911

/-- `VBV_CAPACITY`: any natural with `1 ≤ VBV_CAPACITY` and `VBV_CAPACITY·8 < 2^32` (R9, D10). -/
def vbvCapacity : Nat := vbvCapacityPred.val + 1

/-- `PA`, on the addresses where it is defined (D11). -/
opaque pa : Nat → Word

/-- Whether `PA` is defined at an address (20_memory.md R58). -/
opaque paDefined : Nat → Bool

/-- `RESOLVE`: the surface a reference identifier stands for, if it resolves (D11). -/
opaque resolve : Nat → Option Surface

/-- `WAIT_COUNT`, which R9 gives the value 1 (D22). -/
def waitCount : Nat := 1

/-- `WAIT_TIMEOUT`: whether a timeout event may end the wait (D23). -/
opaque waitTimeout : Bool

/-- `ALIGN_OK(base)`: the engine's alignment need, a host premise (20_memory.md R55, D30). -/
opaque alignOk : Word → Bool

/-- `COHERENT(req)`: the host's coherence duty (20_memory.md R63, D32). -/
opaque coherent : Request → Bool

/-- Free value: the word the engine draws for a read of `REG_MODE` (10_state.md R27, D34). -/
opaque modeDraw : Nat → Word

/-- Free value: the byte of the engine's inferred quantisation table at a tag after a reset, which the
spec leaves at "any value" (10_state.md R32, 93_implementation_defined.md U14). The first argument tells
the resets apart. -/
opaque qtReset : Nat → Nat → Byte

/-- Free value: whether the timeout ends a wait that a completion could end too (60_exceptions.md
R204, D23). -/
opaque waitChoice : Nat → Bool

end Sys2Proof.Config
end

