-- ==== Sys2Proof/WellFormed.lean ====
section
/-! DEFINITION. Which operations have a word of their row (spec/30_encoding.md R71 to R83, R86) and which
requests the DFE accepts (spec/10_state.md R24, 60_exceptions.md R206). -/

namespace Sys2Proof

/-- A marker byte qualifies exactly when it is `0x01` to `0xAF` (40_scanner.md R101). -/
def qualifying (m : Byte) : Bool := decide (1 ≤ m.toNat) && decide (m.toNat ≤ 0xAF)

/-- The operation has a word of its row: the marker is of its class (R71), the bits R86 fixes at zero
are zero, and the wait expects `WAIT_COUNT` events (R83). -/
def Instr.wf : Instr → Bool
  | .scQualifying m => qualifying m
  | .scNonqualifying m => !qualifying m
  | .sizePx w h => decide (w.extractLsb' 0 4 = 0) && decide (h.extractLsb' 0 4 = 0)
  | .vldOffset b => decide (b.extractLsb' 0 3 = 0)
  | .vldLen b => decide (b.extractLsb' 0 3 = 0)
  | .wait n => decide (n = Config.waitCount)
  | .modeEnter _ | .iqIntra _ _ | .iqNonintra _ _ | .sizeMb _ _ | .picHdr _ | .prime
  | .fwdLuma _ | .fwdChroma _ | .bwdLuma _ | .bwdChroma _
  | .recLuma _ | .recChroma _ | .rotLuma _ | .rotChroma _
  | .vldEnd _ | .vldAddr _ | .trigger _ | .statusClear | .modeExit _ => true

/-- `PA` is defined at both planes of a surface (20_memory.md R58). -/
def Surface.translatable (s : Surface) : Bool :=
  Config.paDefined s.va && Config.paDefined (s.va + s.planeSize)

/-- `PA` is defined at both planes of the surface a reference resolves to; a reference that is absent
or does not resolve has no address to translate. -/
def refTranslatable : Option Nat → Bool
  | none => true
  | some h => match Config.resolve h with
    | some s => s.translatable
    | none => true

/-- `WF(req)`: the ranges of R24's table, and `PA` defined at every address the transaction
translates. The widths of the other fields are in their types. -/
def Request.wf (r : Request) : Bool :=
  decide (1 ≤ r.width) && decide (r.width ≤ 4080) &&
  decide (1 ≤ r.height) && decide (r.height ≤ 4080) &&
  decide (r.len ≤ Config.vbvCapacity) &&
  r.output.translatable && Config.paDefined r.bufVa &&
  refTranslatable r.forwardRef && refTranslatable r.backwardRef

end Sys2Proof
end

