-- ==== Sys2Proof/Decode.lean ====
section
/-! DEFINITION. The word formats of spec/30_encoding.md R71 to R84, the decoder of one bus event (R85 to
R87), the encoder, the decoder of a whole trace, and `decodeTableWord`. -/

namespace Sys2Proof

/-! ## Word formats -/

/-- Format `IQW`: `(tag << 8) | value` (R72, R84; 41_encoder.md R120). -/
def iqWord (tag : BitVec 7) (value : Byte) : Word := (zext32 tag <<< 8) ||| zext32 value

/-- The tag of intra entry `i`: `64 + i` (R72). -/
def intraTag (i : BitVec 6) : BitVec 7 := 64#7 + i.setWidth 7

/-- The tag of non-intra entry `i`: `i` (R72). -/
def nonIntraTag (i : BitVec 6) : BitVec 7 := i.setWidth 7

/-- Format `SZMB` (R73). -/
def szmbWord (widthMb heightMb : BitVec 8) : Word := (zext32 widthMb <<< 8) ||| zext32 heightMb

/-- Format `SZPX` (R74). -/
def szpxWord (widthPx heightPx : BitVec 12) : Word := (zext32 widthPx <<< 16) ||| zext32 heightPx

/-- Format `PHW`: the fifteen fields, most significant first (R75, R84; 41_encoder.md R130). -/
def PicHdr.word (h : PicHdr) : Word :=
  (zext32 h.pictureCodingType <<< 28) ||| (zext32 h.fCode00 <<< 24) ||| (zext32 h.fCode01 <<< 20) |||
  (zext32 h.fCode10 <<< 16) ||| (zext32 h.fCode11 <<< 12) ||| (zext32 h.intraDcPrecision <<< 10) |||
  (zext32 h.pictureStructure <<< 8) ||| (zext32 h.topFieldFirst <<< 7) |||
  (zext32 h.framePredFrameDct <<< 6) ||| (zext32 h.concealmentMotionVectors <<< 5) |||
  (zext32 h.qScaleType <<< 4) ||| (zext32 h.intraVlcFormat <<< 3) ||| (zext32 h.alternateScan <<< 2) |||
  (zext32 h.fullPelForwardVector <<< 1) ||| zext32 h.fullPelBackwardVector

/-- The fields of a picture-header word, at the positions of R75. -/
def PicHdr.ofWord (w : Word) : PicHdr where
  pictureCodingType := w.extractLsb' 28 4
  fCode00 := w.extractLsb' 24 4
  fCode01 := w.extractLsb' 20 4
  fCode10 := w.extractLsb' 16 4
  fCode11 := w.extractLsb' 12 4
  intraDcPrecision := w.extractLsb' 10 2
  pictureStructure := w.extractLsb' 8 2
  topFieldFirst := w.extractLsb' 7 1
  framePredFrameDct := w.extractLsb' 6 1
  concealmentMotionVectors := w.extractLsb' 5 1
  qScaleType := w.extractLsb' 4 1
  intraVlcFormat := w.extractLsb' 3 1
  alternateScan := w.extractLsb' 2 1
  fullPelForwardVector := w.extractLsb' 1 1
  fullPelBackwardVector := w.extractLsb' 0 1

/-- Format `MODE`: the word read with its mode-select bits replaced (R82). -/
def modeWord (r : Word) (mode : BitVec 4) : Word := (r &&& 0xFFFFFFF0#32) ||| zext32 mode

/-- Format `TRIG`: the profile's whole trigger word (R81, R90). -/
def triggerWord : Profile → Word
  | .mpeg1 => Config.triggerMpeg1
  | .mpeg2 => Config.triggerMpeg2

/-- Format `SC`: the four bytes `00 00 01 m` as one big-endian word (R71, R85). -/
def startCodeWord (m : Byte) : Word := 0x00000100#32 ||| zext32 m

/-! ## Events and the encoder -/

/-- One encoded operation: the kind, the register offset and the data word (R70), or the four bytes of
a start code. `last` says that the read-modify-write ends its transaction: the position that R85 uses to
tell `MODE_EXIT` from `MODE_ENTER` (entry 23). -/
inductive Event where
  | window (bytes : Word)
  | write (off data : Word)
  | rmw (last : Bool) (off read data : Word)
  | wait (n : Nat)
deriving DecidableEq, Repr

/-- The event of an operation, with its words (R71 to R84). -/
def encode : Instr → Event
  | .scQualifying m => .window (startCodeWord m)
  | .scNonqualifying m => .window (startCodeWord m)
  | .modeEnter r => .rmw false (Config.offset .mode) r (modeWord r 0)
  | .iqIntra i v => .write (Config.offset .iq) (iqWord (intraTag i) v)
  | .iqNonintra i v => .write (Config.offset .iq) (iqWord (nonIntraTag i) v)
  | .sizeMb w h => .write (Config.offset .mbSize) (szmbWord w h)
  | .sizePx w h => .write (Config.offset .frameSize) (szpxWord w h)
  | .picHdr h => .write (Config.offset .picHdr) h.word
  | .prime => .write (Config.offset .prime) Config.primeValue
  | .fwdLuma a => .write (Config.offset .fwdLuma) a
  | .fwdChroma a => .write (Config.offset .fwdChroma) a
  | .bwdLuma a => .write (Config.offset .bwdLuma) a
  | .bwdChroma a => .write (Config.offset .bwdChroma) a
  | .recLuma a => .write (Config.offset .recLuma) a
  | .recChroma a => .write (Config.offset .recChroma) a
  | .rotLuma a => .write (Config.offset .rotLuma) a
  | .rotChroma a => .write (Config.offset .rotChroma) a
  | .vldOffset b => .write (Config.offset .vldOffset) b
  | .vldLen b => .write (Config.offset .vldLen) b
  | .vldEnd a => .write (Config.offset .vldEnd) a
  | .vldAddr w => .write (Config.offset .vldAddr) w
  | .trigger p => .write (Config.offset .trigger) (triggerWord p)
  | .wait n => .wait n
  | .statusClear => .write (Config.offset .status) Config.statusClearValue
  | .modeExit r => .rmw true (Config.offset .mode) r (modeWord r Config.modeIdle)

/-! ## The decoder -/

/-- Why an event is "not a DFE event" (R86, R87, D38). -/
inductive Reject where
  /-- The four bytes are not `00 00 01 m` (R71). -/
  | notStartCode
  /-- The offset is none of the twenty `REG_*` (R87). -/
  | unknownOffset
  /-- The register is not accessed in this way by the DFE (R85). -/
  | wrongKind
  /-- A one in a bit the DFE always writes as zero (R86). -/
  | reservedBit
  /-- The word is not the parameter's whole word (R81). -/
  | notTheConstant
  /-- The read-modify-write does not keep bits [31:4] or writes another mode (R82). -/
  | notModeWord
  /-- The wait does not expect `WAIT_COUNT` events (R83). -/
  | wrongCount
  /-- The operation is out of R150's order (R87). -/
  | wrongOrder
deriving DecidableEq, Repr

/-- The register at an offset (R85: "the offset alone names the register"). -/
def regAt (off : Word) : Option Reg := Reg.all.find? fun r => decide (Config.offset r = off)

/-- A four-byte window of the input stream (R71, R101). -/
def decodeWindow (w : Word) : Except Reject Instr :=
  if w.extractLsb' 8 24 = 1#24 then
    let m := w.extractLsb' 0 8
    if qualifying m then .ok (.scQualifying m) else .ok (.scNonqualifying m)
  else .error .notStartCode

/-- A write of the word `w` to a register (R85, R86). -/
def decodeWrite (r : Reg) (w : Word) : Except Reject Instr :=
  match r with
  | .mode => .error .wrongKind
  | .iq =>
    if w.extractLsb' 15 17 ≠ 0 then .error .reservedBit
    else if w.extractLsb' 14 1 = 1 then .ok (.iqIntra (w.extractLsb' 8 6) (w.extractLsb' 0 8))
    else .ok (.iqNonintra (w.extractLsb' 8 6) (w.extractLsb' 0 8))
  | .mbSize =>
    if w.extractLsb' 16 16 ≠ 0 then .error .reservedBit
    else .ok (.sizeMb (w.extractLsb' 8 8) (w.extractLsb' 0 8))
  | .frameSize =>
    if w &&& 0xF00FF00F#32 ≠ 0 then .error .reservedBit
    else .ok (.sizePx (w.extractLsb' 16 12) (w.extractLsb' 0 12))
  | .picHdr => .ok (.picHdr (PicHdr.ofWord w))
  | .prime => if w = Config.primeValue then .ok .prime else .error .notTheConstant
  | .fwdLuma => .ok (.fwdLuma w)
  | .fwdChroma => .ok (.fwdChroma w)
  | .bwdLuma => .ok (.bwdLuma w)
  | .bwdChroma => .ok (.bwdChroma w)
  | .recLuma => .ok (.recLuma w)
  | .recChroma => .ok (.recChroma w)
  | .rotLuma => .ok (.rotLuma w)
  | .rotChroma => .ok (.rotChroma w)
  | .vldOffset => if w.extractLsb' 0 3 ≠ 0 then .error .reservedBit else .ok (.vldOffset w)
  | .vldLen => if w.extractLsb' 0 3 ≠ 0 then .error .reservedBit else .ok (.vldLen w)
  | .vldEnd => .ok (.vldEnd w)
  | .vldAddr => .ok (.vldAddr w)
  | .trigger =>
    if w = Config.triggerMpeg1 then .ok (.trigger .mpeg1)
    else if w = Config.triggerMpeg2 then .ok (.trigger .mpeg2)
    else .error .notTheConstant
  | .status => if w = Config.statusClearValue then .ok .statusClear else .error .notTheConstant

/-- A read of `r` and then a write of `w` at `REG_MODE` (R82, R85). The position tells the two
operations apart, which it does even if `MODE_IDLE` is 0. -/
def decodeMode (last : Bool) (r w : Word) : Except Reject Instr :=
  match last with
  | false => if w = modeWord r 0 then .ok (.modeEnter r) else .error .notModeWord
  | true => if w = modeWord r Config.modeIdle then .ok (.modeExit r) else .error .notModeWord

/-- The operation of an event: first the kind, then the offset, then the word (R85). Total; what is no
DFE event is rejected by name (R87). -/
def decode : Event → Except Reject Instr
  | .window w => decodeWindow w
  | .write off w =>
    match regAt off with
    | some r => decodeWrite r w
    | none => .error .unknownOffset
  | .rmw last off r w =>
    match regAt off with
    | some .mode => decodeMode last r w
    | some _ => .error .wrongKind
    | none => .error .unknownOffset
  | .wait n => if n = Config.waitCount then .ok (.wait n) else .error .wrongCount

/-! ## The order of a trace -/

/-- The place of an operation in R150's program, counting both references (10_state.md R23). -/
def place : Instr → Option Nat
  | .scQualifying _ => none
  | .scNonqualifying _ => none
  | .modeEnter _ => some 0
  | .iqIntra i _ => some (1 + i.toNat)
  | .iqNonintra i _ => some (65 + i.toNat)
  | .sizeMb _ _ => some 129
  | .sizePx _ _ => some 130
  | .picHdr _ => some 131
  | .prime => some 132
  | .fwdLuma _ => some 133
  | .fwdChroma _ => some 134
  | .bwdLuma _ => some 135
  | .bwdChroma _ => some 136
  | .recLuma _ => some 137
  | .recChroma _ => some 138
  | .rotLuma _ => some 139
  | .rotChroma _ => some 140
  | .vldOffset _ => some 141
  | .vldLen _ => some 142
  | .vldEnd _ => some 143
  | .vldAddr _ => some 144
  | .trigger _ => some 145
  | .wait _ => some 146
  | .statusClear => some 147
  | .modeExit _ => some 148

/-- The places of a whole transaction with the given references (42_sequencer.md R159). -/
def placesOf (fwd bwd : Bool) : List Nat :=
  List.range 133 ++ (if fwd then [133, 134] else []) ++ (if bwd then [135, 136] else []) ++
  (List.range 12).map (137 + ·)

/-- The operations stand in R150's order, each once, from the first on: they are a beginning of one
transaction, or a whole one. Any other order is not a DFE trace (R87). -/
def isDfeOrder (l : List Instr) : Bool :=
  [placesOf false false, placesOf true false, placesOf false true, placesOf true true].any
    fun ps => (l.map place).isPrefixOf (ps.map some)

/-! ## Traces -/

/-- One raw event of a bus trace (00_scope.md R16). -/
inductive RawEvent where
  | read (off v : Word)
  | write (off v : Word)
  | wait (n : Nat)
deriving DecidableEq, Repr

/-- The events of a raw trace, one by one: a read pairs with the write that follows it at the same offset
(R85). A read-modify-write that is the first operation of its trace is told from a later one by its
position (95_test_vectors.md D10, D11); R150's order lets a later one stand only at the end. -/
def decodeEvents (first : Bool) : List RawEvent → Except Reject (List Instr)
  | [] => .ok []
  | .read off r :: .write off' w :: rest =>
    if off = off' then
      match decode (.rmw (!first) off r w), decodeEvents false rest with
      | .ok i, .ok is => .ok (i :: is)
      | .error e, _ => .error e
      | .ok _, .error e => .error e
    else .error .wrongKind
  | .read _ _ :: _ => .error .wrongKind
  | .write off w :: rest =>
    match decode (.write off w), decodeEvents false rest with
    | .ok i, .ok is => .ok (i :: is)
    | .error e, _ => .error e
    | .ok _, .error e => .error e
  | .wait n :: rest =>
    match decode (.wait n), decodeEvents false rest with
    | .ok i, .ok is => .ok (i :: is)
    | .error e, _ => .error e
    | .ok _, .error e => .error e

/-- The operations of the raw trace of one transaction, whole or in progress: every event must be the
DFE's, and their order R150's (R87). -/
def decodeTrace (l : List RawEvent) : Except Reject (List Instr) :=
  match decodeEvents true l with
  | .ok is => if isDfeOrder is then .ok is else .error .wrongOrder
  | .error e => .error e

/-! ## Bare table words -/

/-- The operation of a bare data word, whose kind and register are not given. By R85 a word belongs to
a row when `word & mask = match`, and a bare word may belong to several rows: this answers the row with
the most mask bits, the first of the table among equals (DESIGN CHOICE, entry 21; the machine never
decodes a bare word). A mode word stands for a read that returned the same word. The rows whose match
is a parameter, and the rows with no mask bit but `PIC_HDR`, are never answered. -/
def decodeBare (w : Word) : Instr :=
  if w &&& 0xFFFFFF00#32 = 0x00000100#32 then
    let m := w.extractLsb' 0 8
    if qualifying m then .scQualifying m else .scNonqualifying m
  else if w &&& 0xFFFFC000#32 = 0x00004000#32 then .iqIntra (w.extractLsb' 8 6) (w.extractLsb' 0 8)
  else if w &&& 0xFFFFC000#32 = 0 then .iqNonintra (w.extractLsb' 8 6) (w.extractLsb' 0 8)
  else if w &&& 0xFFFF0000#32 = 0 then .sizeMb (w.extractLsb' 8 8) (w.extractLsb' 0 8)
  else if w &&& 0xF00FF00F#32 = 0 then .sizePx (w.extractLsb' 16 12) (w.extractLsb' 0 12)
  else if w &&& 0x0000000F#32 = 0 then .modeEnter w
  else if w &&& 0x00000007#32 = 0 then .vldOffset w
  else .picHdr (PicHdr.ofWord w)

/-- The instruction of a table word: every operation's word is one 32-bit data word, so a longer one is
refused. -/
def decodeTableWord (nbits w : Nat) : Option Instr :=
  if nbits ≤ 32 ∧ w < 2 ^ 32 then some (decodeBare (mod32 w)) else none

end Sys2Proof
end

