-- ==== Sys2Proof/Machine/State.lean ====
section
/-! DEFINITION. The machine's state as plain data (spec/10_state.md), the ways a step can stop, and the
state after reset (R46, 70_reset_and_hazards.md R240, R241). -/

namespace Sys2Proof.Machine

/-- The sequencer's states (R22). -/
inductive SeqState where
  | idle | configuring | triggered | awaitingCompletion | completing
deriving DecidableEq, Repr

/-- The step pointer: the source's step number, 1 to 12, and the index of the operation in that step
(R23). -/
structure Pc where
  step : Nat
  k : Nat
deriving DecidableEq, Repr

/-- The outcome codes of a transaction (R29, 60_exceptions.md R200). -/
inductive ResultCode where
  | ok | hwTimeout | invalidReference
deriving DecidableEq, Repr

/-- Which reference failed to resolve (R29). -/
inductive RefInfo where
  | none | fwd | bwd
deriving DecidableEq, Repr

/-- The result register `res` (R29). -/
structure Result where
  code : ResultCode
  noStartCode : Bool
  startOffset : Nat
  info : RefInfo
deriving DecidableEq, Repr

/-- The scanner's working state: the byte index, the zero counter (0 to 2), and whether a prefix has
just been completed, so that `i` indexes the marker (R26, 40_scanner.md R103). -/
structure Scanner where
  i : Nat
  z : Nat
  hit : Bool
deriving DecidableEq, Repr

/-- How a wait ended (42_sequencer.md R173). -/
inductive WaitOutcome where
  | ok | timeout
deriving DecidableEq, Repr

/-- One bus event, with the register by its name (00_scope.md R16). -/
inductive BusEvent where
  | read (r : Reg) (v : Word)
  | write (r : Reg) (v : Word)
  | wait (n : Nat)
deriving DecidableEq, Repr

/-- What the engine, or the timer, does between two steps of the DFE (10_state.md R21, 42_sequencer.md
R173; entry 11). -/
inductive EnvMove where
  /-- The engine ends a running decode and adds its one completion event to `pending` (R21 a). -/
  | completes (decode : Nat)
  /-- The engine changes the word the next read of `REG_MODE` returns (R21 b). -/
  | modeBecomes (w : Word)
  /-- The engine writes a byte of an output surface (R21 c). -/
  | storesPixel (addr : Nat) (b : Byte)
  /-- A timeout event (R173 b). -/
  | timeoutFires
deriving DecidableEq, Repr

/-- What the host does between transactions (10_state.md R20; entry 18). -/
inductive HostMove where
  /-- Supply a transaction request (42_sequencer.md R176). -/
  | request (r : Request)
  /-- Read the result register (10_state.md R29, R46); in a closed session the model's choice (entry 35). -/
  | readResult
  /-- Put a byte into memory, for instance into the picture buffer; in a closed session the model's choice
  (entry 35). -/
  | store (addr : Nat) (b : Byte)
  /-- End the session (70_reset_and_hazards.md R243); in a closed session the model's choice (entry 35). -/
  | teardown
  /-- Start a session: the reset event (70_reset_and_hazards.md R240); in an open session the model's
  choice (entry 35). -/
  | sessionStart
deriving DecidableEq, Repr

/-- The machine stops with a fault. The spec's DFE records none (93_implementation_defined.md Part A). -/
inductive Fault where
  /-- Raised by a read of the picture buffer outside 0 to `len − 1`, which 00_scope.md R14 forbids, and
  by an end of scan whose code would begin before index 0. No scan that started by a request reaches
  one. Safe: the model stops. -/
  | bufferOverread
deriving DecidableEq, Repr

/-- The machine gives no meaning to what it is asked. -/
inductive Refusal where
  /-- Raised by `exec` for an instruction whose meaning is not written yet; no arm uses it. Safe. -/
  | notModelled (mnemonic : String)
  /-- Raised by the acceptance of a request that breaks `WF` (60_exceptions.md R206). Safe. -/
  | requestIllFormed
  /-- Raised by the host's read of `res` before the first transaction has ended (10_state.md R46).
  Safe. -/
  | resultNotReady
  /-- Raised by the step where the step pointer names no operation of the transaction program, or four
  bytes of the buffer that ended a prefix are no start code (30_encoding.md R87). No run that keeps
  70_reset_and_hazards.md R252 reaches one. Safe. -/
  | notDfeOperation
  /-- Raised by the two start-code operations where no scan is in progress: the scanner state they act
  on exists only during a scan (10_state.md R26). Safe. -/
  | noScanInProgress
deriving DecidableEq, Repr

/-- The whole state. Fields up to `mem` are the spec's; the rest are the model's own (INVENTORY.md). -/
structure State where
  /-- R22. -/
  st : SeqState
  /-- R23; `none` is "undefined". -/
  pc : Option Pc
  /-- R24; `none` is "no request held". -/
  latch : Option Request
  /-- The resolved forward surface (42_sequencer.md R150). -/
  fwd : Option Surface
  /-- The resolved backward surface (42_sequencer.md R150). -/
  bwd : Option Surface
  /-- The outcome of the wait, once it has ended (42_sequencer.md R150). -/
  outcome : Option WaitOutcome
  /-- R26; `none` outside a scan. -/
  scan : Option Scanner
  /-- R29. -/
  res : Result
  /-- Whether a transaction has ended since reset, so that `res` may be read (R46). -/
  resValid : Bool
  /-- Whether the session is open (70_reset_and_hazards.md R240, R243). Only a request reads it (entry 35). -/
  sessionOpen : Bool
  /-- The bus trace of the transaction in progress or last ended, oldest first (00_scope.md R16). -/
  trace : List BusEvent
  /-- `EReg`, indexed by `Reg.index`; `none` is "unknown" (R27). -/
  ereg : Vector (Option Word) 20
  /-- `QT[tag]`, the engine's inferred quantisation table (R32). -/
  qt : Vector Byte 128
  /-- Completion events not yet consumed (R28). -/
  pending : Nat
  /-- The buffer byte space, in canonical form (20_memory.md R51). -/
  mem : List Host.Cell
  /-- The draw that the next read of `REG_MODE` returns (R27). -/
  modeNext : Word
  /-- How many free values have been drawn. -/
  draws : Nat
  /-- How many triggers have been written since reset; the decodes are numbered by it (R21 a). -/
  decodes : Nat
  /-- The decodes whose completion event the engine has not raised yet, oldest first (R21, 20_memory.md
  R61). -/
  running : List Nat
  /-- Whether a transaction since reset ended with `HW_TIMEOUT` while its own decode was running
  (70_reset_and_hazards.md R242). -/
  leftover : Bool
  /-- Whether a timeout event happens at this step (42_sequencer.md R173). -/
  timeoutEvent : Bool
  /-- The host's coming moves. -/
  host : List HostMove
  /-- The engine's and the timer's coming moves: for each coming step, those before it, in order. -/
  env : List (List EnvMove)
  /-- The result the host last read. -/
  delivered : Option Result
deriving DecidableEq, Repr

/-- The outcome type of every meaning. -/
abbrev Out := Host.Outcome State Fault Refusal

/-- The table `QT` after a reset: free values (entry 7). -/
def resetTable (draw : Nat) : Vector Byte 128 := Vector.ofFn fun tag => Config.qtReset draw tag.val

/-- The machine right after reset, the session-start event (R46, 70_reset_and_hazards.md R240): Idle, no
request, nothing pending, every engine register unknown, every entry of `QT` a free value. `res` is unspecified and unreadable; its value
here is a DESIGN CHOICE (entry 5). The first draw is already waiting in `modeNext`. -/
def State.reset : State where
  st := .idle
  pc := none
  latch := none
  fwd := none
  bwd := none
  outcome := none
  scan := none
  res := { code := .ok, noStartCode := false, startOffset := 0, info := .none }
  resValid := false
  sessionOpen := true
  trace := []
  ereg := Vector.replicate 20 none
  qt := resetTable 0
  pending := 0
  mem := []
  modeNext := Config.modeDraw 0
  draws := 1
  decodes := 0
  running := []
  leftover := false
  timeoutEvent := false
  host := []
  env := []
  delivered := none

end Sys2Proof.Machine
end

