-- ==== Sys2Proof/Machine/Memory.lean ====
section
/-! DEFINITION. The buffer byte space (spec/20_memory.md R51, spec/00_scope.md R14): a sparse memory of
bytes in one canonical form (entry 34), indexed by virtual address (entry 33), and the bytes `Buf[i]` of a request. -/

namespace Sys2Proof.Machine

/-- What an address reads as that no entry lists. The spec gives no contents; DESIGN CHOICE, unsafe
(entry 4). -/
def Memory.unlisted : Byte := 0

/-- One byte. -/
def Memory.read : List Host.Cell → Nat → Byte
  | [], _ => Memory.unlisted
  | (a, b) :: rest, x => if x = a then b else Memory.read rest x

/-- Take the entry of an address out. -/
def Memory.erase : List Host.Cell → Nat → List Host.Cell
  | [], _ => []
  | (a, b) :: rest, x => if x = a then rest else (a, b) :: Memory.erase rest x

/-- Put an entry at its place, over an entry of the same address. -/
def Memory.insert : List Host.Cell → Nat → Byte → List Host.Cell
  | [], x, v => [(x, v)]
  | (a, b) :: rest, x, v =>
    if x < a then (x, v) :: (a, b) :: rest
    else if x = a then (x, v) :: rest
    else (a, b) :: Memory.insert rest x v

/-- Store one byte, keeping the canonical form. -/
def Memory.write (m : List Host.Cell) (x : Nat) (v : Byte) : List Host.Cell :=
  if v = Memory.unlisted then Memory.erase m x else Memory.insert m x v

/-- Every entry of a list lies above an address and differs from what an unlisted address reads as, and
the addresses rise. -/
def Memory.wfAbove : Nat → List Host.Cell → Bool
  | _, [] => true
  | lo, (a, b) :: rest => decide (lo ≤ a) && decide (b ≠ Memory.unlisted) && Memory.wfAbove (a + 1) rest

/-- The canonical form: addresses strictly rising, no entry equal to an unlisted byte. -/
def Memory.wf (m : List Host.Cell) : Bool := Memory.wfAbove 0 m

/-- `Buf[i]`, which stands for the byte at `buf_va + i`; reading at or past `len` is forbidden (R14). -/
def bufByte (m : List Host.Cell) (r : Request) (i : Nat) : Except Fault Byte :=
  if i < r.len then .ok (Memory.read m (r.bufVa + i)) else .error .bufferOverread

/-- The bytes `Buf[0]` to `Buf[len − 1]`. -/
def bufBytes (m : List Host.Cell) (r : Request) : List Byte :=
  (List.range r.len).map fun i => Memory.read m (r.bufVa + i)

/-- The four bytes up to the marker at index `q`, as one big-endian word (30_encoding.md R71, R85). -/
def codeWindow (m : List Host.Cell) (r : Request) (q : Nat) : Except Fault Word :=
  if q < 3 then .error .bufferOverread
  else
    match bufByte m r (q - 3), bufByte m r (q - 2), bufByte m r (q - 1), bufByte m r q with
    | .ok b0, .ok b1, .ok b2, .ok b3 => .ok (b0 ++ b1 ++ b2 ++ b3)
    | _, _, _, _ => .error .bufferOverread

/-- Whether an address is one of the latched request's buffer bytes, which no agent changes during the
transaction (70_reset_and_hazards.md R252). It compares virtual addresses; that no other virtual address
stands for the same byte is the model's choice (entry 33). -/
def inBuffer (latch : Option Request) (x : Nat) : Bool :=
  match latch with
  | some r => decide (r.bufVa ≤ x) && decide (x < r.bufVa + r.len)
  | none => false

end Sys2Proof.Machine
end

