-- ==== Sys2Proof/Machine/Operands.lean ====
section
/-! DEFINITION. The Picture Register Encoder (spec/41_encoder.md): the words as functions of the request
latch, and the operands of every operation (spec/42_sequencer.md sections 2 to 7). -/

namespace Sys2Proof.Machine

/-- `QW(tag, value)` (R120). -/
def qw (tag : BitVec 7) (value : Byte) : Word := (zext32 tag <<< 8) ||| zext32 value

/-- `QTAB`: the 128 quantisation words, intra first, each matrix in index order (R121). -/
def qtab (intraQ nonIntraQ : Vector Byte 64) : List Word :=
  (List.finRange 64).map (fun i => qw (BitVec.ofNat 7 (64 + i.val)) intraQ[i]) ++
  (List.finRange 64).map (fun i => qw (BitVec.ofNat 7 i.val) nonIntraQ[i])

/-- `width_mb` or `height_mb`: a size in macroblocks, rounded up (R125). -/
def mbCount (x : Nat) : Nat := (x + 15) / 16

/-- `SZMB(width, height)` (R125). -/
def szmb (width height : Nat) : Word := mod32 ((mbCount width <<< 8) ||| mbCount height)

/-- `SZPX(width, height)` (R126). -/
def szpx (width height : Nat) : Word := mod32 (((16 * mbCount width) <<< 16) ||| (16 * mbCount height))

/-- `PHW(latch)`: for MPEG1 the parameter's pattern is ORed in, for MPEG2 nothing (R131, R132). -/
def phw (profile : Profile) (h : PicHdr) : Word :=
  match profile with
  | .mpeg1 => h.word ||| Config.mpeg1PicHdrOr
  | .mpeg2 => h.word

/-- The luma address of a surface, translated (42_sequencer.md R160 to R166). -/
def lumaAddr (s : Surface) : Word := Config.pa s.va

/-- The chroma address of a surface: translated by itself (20_memory.md R58). -/
def chromaAddr (s : Surface) : Word := Config.pa (s.va + s.planeSize)

/-- `base = PA(buf_va)` (42_sequencer.md R150). -/
def baseAddr (r : Request) : Word := Config.pa r.bufVa

/-- The start offset in bits (42_sequencer.md R168). -/
def vldOffsetBits (off : Nat) : Word := mod32 (off * 8)

/-- The payload length in bits (42_sequencer.md R169). -/
def vldLenBits (r : Request) (off : Nat) : Word := mod32 ((r.len - off) * 8)

/-- `mod32(base + VBV_CAPACITY − 1)` (42_sequencer.md R170). -/
def vldEndAddr (r : Request) : Word := mod32 ((baseAddr r).toNat + Config.vbvCapacity - 1)

/-- `RESOLVE` of an optional reference: absent, resolved or failed (42_sequencer.md R150, R159). -/
def resolveRef : Option Nat → Option (Option Surface)
  | none => some none
  | some h =>
    match Config.resolve h with
    | some s => some (some s)
    | none => none

end Sys2Proof.Machine
end

