-- ==== Sys2Proof/Machine/Flags.lean ====
section
/-! DEFINITION. What is written to the result register and its flag (spec/10_state.md R29, R31;
spec/40_scanner.md R106; spec/42_sequencer.md R177). The DFE has no other flags. -/

namespace Sys2Proof.Machine

/-- The flags of a scan: the start offset and `no_start_code` (R106); the rest of `res` stays. -/
def Result.withScan (res : Result) (off : Nat) (found : Bool) : Result :=
  { res with startOffset := off, noStartCode := !found }

/-- The result when a transaction ends after its wait (R177). -/
def Result.withOutcome (res : Result) (o : Option WaitOutcome) : Result :=
  { res with code := (if o = some .timeout then .hwTimeout else .ok), info := .none }

/-- The result of `INVALID_REFERENCE` (R177, 60_exceptions.md R201, R208). -/
def Result.invalid (which : RefInfo) : Result :=
  { code := .invalidReference, noStartCode := false, startOffset := 0, info := which }

/-- The number of an outcome (10_state.md R29). -/
def ResultCode.number : ResultCode → Nat
  | .ok => 0
  | .hwTimeout => 1
  | .invalidReference => 2

end Sys2Proof.Machine
end

