-- ==== Sys2Proof/Machine/Ops.lean ====
section
/-! DEFINITION. The named operations over the state that the meanings share: the register bus
(spec/00_scope.md R15, R16), the step pointer (spec/10_state.md R23), the end of a scan, and the entry
into and the return from an error (spec/60_exceptions.md R208, R209). -/

namespace Sys2Proof.Machine

/-! ## The register bus -/

/-- `EReg[r]`. -/
def State.reg (s : State) (r : Reg) : Option Word := s.ereg[r.index]

/-- `EReg` after a write. `STATUS_CLEAR` is an action, not a stored value, so `REG_STATUS` stays unknown
(70_reset_and_hazards.md R241, entry 8). -/
def storeReg (e : Vector (Option Word) 20) (r : Reg) (v : Word) : Vector (Option Word) 20 :=
  match r with
  | .status => e
  | _ => e.set r.index (some v)

/-- `QT` after a write: a word to `REG_IQ` loads the entry its tag names (10_state.md R32). -/
def storeQt (q : Vector Byte 128) (r : Reg) (v : Word) : Vector Byte 128 :=
  match r with
  | .iq => q.set (v.extractLsb' 8 7).toNat (v.extractLsb' 0 8) (v.extractLsb' 8 7).isLt
  | _ => q

/-- `RegWrite`: one bus event (00_scope.md R15), what the register then holds, and the side effects of
20_memory.md R56. A write of `REG_TRIGGER` starts a decode. -/
def State.regWrite (s : State) (r : Reg) (v : Word) : State :=
  { s with
    trace := s.trace ++ [.write r v]
    ereg := storeReg s.ereg r v
    qt := storeQt s.qt r v
    decodes := s.decodes + (if r = .trigger then 1 else 0)
    running := s.running ++ (if r = .trigger then [s.decodes + 1] else []) }

/-- `RegRead(REG_MODE)` returning `v`: one bus event; the next read returns a fresh draw
(10_state.md R27). -/
def State.modeRead (s : State) (v : Word) : State :=
  { s with
    trace := s.trace ++ [.read .mode v]
    modeNext := Config.modeDraw s.draws
    draws := s.draws + 1 }

/-! ## The step pointer -/

/-- The number of operations of each step; an absent reference contributes none to step 6 (R23). -/
def opCount (fwd bwd : Option Surface) : Nat → Nat
  | 1 => 1
  | 2 => 128
  | 3 => 2
  | 4 => 1
  | 5 => 1
  | 6 => (if fwd.isSome then 2 else 0) + (if bwd.isSome then 2 else 0)
  | 7 => 4
  | 8 => 4
  | 9 => 1
  | 10 => 1
  | 11 => 1
  | 12 => 1
  | _ => 0

/-- The place after an operation: the next of its step, or the first of the next step that has one
(R23). Only step 6 can have none. -/
def Pc.after (fwd bwd : Option Surface) (p : Pc) : Pc :=
  if p.k + 1 < opCount fwd bwd p.step then ⟨p.step, p.k + 1⟩
  else if p.step = 5 ∧ opCount fwd bwd 6 = 0 then ⟨7, 0⟩
  else ⟨p.step + 1, 0⟩

/-- `pc` advances by one after an operation (R23). -/
def State.advance (s : State) : State :=
  { s with pc := s.pc.map (Pc.after s.fwd s.bwd) }

/-! ## One write, one read-modify-write -/

/-- An operation that is one register write. -/
def State.busWrite (s : State) (r : Reg) (v : Word) : State := (s.regWrite r v).advance

/-- The read and the write of a read-modify-write of `REG_MODE` (R82): `v` is the word read. The two
events belong to one operation (10_state.md R23). -/
def State.modeRmw (s : State) (v : Word) (mode : BitVec 4) : State :=
  (s.modeRead v).regWrite .mode (modeWord v mode)

/-! ## The scan's end -/

/-- The scan has its result: its flags are written and the first step begins (42_sequencer.md R150). -/
def State.finishScan (s : State) (off : Nat) (found : Bool) : State :=
  { s with
    res := s.res.withScan off found
    scan := none
    st := .configuring
    pc := some ⟨1, 0⟩ }

/-! ## Errors and the end of a transaction -/

/-- Entry into `INVALID_REFERENCE` (60_exceptions.md R201, R208): `res` is written, control stays at
Idle, no register is read or written, `pending` is unchanged. The trace of the transaction is empty. -/
def State.raiseInvalidReference (s : State) (which : RefInfo) : State :=
  { s with res := Result.invalid which, resValid := true, trace := [] }

/-- The return to Idle after the last operation, with either outcome of the wait (R23, R177,
60_exceptions.md R202, R208, R209): `pc` is undefined and the latch is empty again. An end by timeout
while the transaction's own decode, the last one triggered, is running leaves engine work over
(70_reset_and_hazards.md R242, entry 13). -/
def State.endTransaction (s : State) : State :=
  { s with
    st := .idle
    pc := none
    latch := none
    fwd := none
    bwd := none
    outcome := none
    res := s.res.withOutcome s.outcome
    resValid := true
    leftover := s.leftover || (decide (s.outcome = some .timeout) && s.running.contains s.decodes) }

/-! ## The wait -/

/-- A wait begins: the state changes and the trace gets its one marker; a wait that already holds adds
none (42_sequencer.md R173). -/
def State.beginWait (s : State) (n : Nat) : State :=
  if s.st = .awaitingCompletion then s
  else { s with st := .awaitingCompletion, trace := s.trace ++ [.wait n] }

/-- The wait ends by completion: it consumes `n` events (R173 a). -/
def State.waitCompletes (s : State) (n : Nat) : State :=
  { s with pending := s.pending - n, outcome := some .ok }.advance

/-- Entry into a timeout: control goes on to step 11 (R173 b, 60_exceptions.md R202, R208). -/
def State.waitTimesOut (s : State) : State :=
  { s with outcome := some .timeout }.advance

/-- One more free value has been drawn. -/
def State.drew (s : State) : State := { s with draws := s.draws + 1 }

/-! ## The session -/

/-- Reset: the session-start event (70_reset_and_hazards.md R240). The DFE and its view of the engine go
to the state of 10_state.md R46; host memory, the other agents' coming moves and the count of draws are
not the DFE's, and the table's contents are drawn afresh (entries 7, 27). -/
def State.sessionStart (s : State) : State :=
  { State.reset with
    mem := s.mem
    host := s.host
    env := s.env
    delivered := s.delivered
    qt := resetTable s.draws
    modeNext := Config.modeDraw s.draws
    draws := s.draws + 1 }

end Sys2Proof.Machine
end

