-- ==== Sys2Proof/Machine/Scan.lean ====
section
/-! DEFINITION. The Start-Code Scanner (spec/40_scanner.md): the pass over one byte, the whole scan as a
function of the bytes (R103), and the meanings of the two start-code rows (R102, R104). -/

namespace Sys2Proof.Machine

/-- The scanner's state at the start of a scan (R103). -/
def Scanner.start : Scanner := { i := 0, z := 0, hit := false }

/-- One pass of R103's inner loop over the byte at `i`: a zero raises the counter, saturating at 2
(10_state.md R26); a `0x01` after two zeros completes a prefix; any other byte resets the counter. -/
def Scanner.pass (sc : Scanner) (b : Byte) : Scanner :=
  if b = 0 then { sc with i := sc.i + 1, z := min (sc.z + 1) 2 }
  else if b = 1 ∧ sc.z = 2 then { sc with i := sc.i + 1, hit := true }
  else { sc with i := sc.i + 1, z := 0 }

/-- The scan goes on AT the marker byte with `z = 0` (R104). -/
def Scanner.resume (sc : Scanner) : Scanner := { sc with z := 0, hit := false }

/-- R103's loop on at most `fuel` looks at a byte: the offset and whether a code was found. A prefix
with no marker byte after it ends the scan like the end of the buffer (R105). -/
def scanFrom (buf : List Byte) : Nat → Scanner → Nat × Bool
  | 0, _ => (0, false)
  | fuel + 1, sc =>
    match buf[sc.i]? with
    | none => (0, false)
    | some b =>
      if sc.hit then
        if qualifying b then (sc.i - 3, true) else scanFrom buf fuel sc.resume
      else scanFrom buf fuel (sc.pass b)

/-- `SCAN(Buf, len)`: R103's loop from the start. Each byte is looked at most twice (R107), so the looks
suffice. -/
def scanBytes (buf : List Byte) : Nat × Bool := scanFrom buf (2 * buf.length + 1) Scanner.start

/-- `p ∈ Q`: a qualifying 4-byte code begins at `p` (R102). -/
def isCodeAt (buf : List Byte) (p : Nat) : Bool :=
  buf[p]? == some 0 && buf[p + 1]? == some 0 && buf[p + 2]? == some 1 &&
  (match buf[p + 3]? with
   | some m => qualifying m
   | none => false)

/-- The pass over one byte as a step of the machine; it has no bus event (10_state.md R26). -/
def State.scanPass (s : State) (r : Request) (sc : Scanner) : Out :=
  match bufByte s.mem r sc.i with
  | .ok b => .next { s with scan := some (sc.pass b) }
  | .error f => .fault f

/-- The end of the buffer ends the scan with the fallback offset 0 (R102, R105, R112). -/
def State.scanEnd (s : State) : State := s.finishScan 0 false

/-- `SC_QUALIFYING`: the scan ends; the result is the offset of the 4-byte code, three below the marker
(R102, R103, R106). -/
def execScQualifying (_m : Byte) (s : State) : Out :=
  match s.scan with
  | none => .refused .noScanInProgress
  | some sc => if sc.i < 3 then .fault .bufferOverread else .next (s.finishScan (sc.i - 3) true)

/-- `SC_NONQUALIFYING`: the scan resumes at the marker byte itself, with `z = 0` (R104). -/
def execScNonqualifying (_m : Byte) (s : State) : Out :=
  match s.scan with
  | none => .refused .noScanInProgress
  | some sc => .next { s with scan := some sc.resume }

end Sys2Proof.Machine
end

