-- ==== Sys2Proof/Machine/Agents.lean ====
section
/-! DEFINITION. The other agents: the engine's and the timer's moves at every step (spec/10_state.md R21),
the acceptance of a request (phase 0 of spec/42_sequencer.md R150, R176), and the host's moves between
transactions. -/

namespace Sys2Proof.Machine

/-- What one move of the engine or the timer does. A completion event ends a running decode, one event
for each trigger (R21, entry 12). A pixel is stored only while a decode runs: the writes of a decode are
over once its completion event was raised (20_memory.md R61), and that the engine stores nothing with no
decode running is otherwise the model's choice (entries 19 and 27). It is stored by its virtual address
and never in the latched request's buffer (70_reset_and_hazards.md R252, entries 19 and 33: that `PA` maps
no two virtual addresses to one byte is the model's choice). -/
def State.envMove (s : State) (m : EnvMove) : State :=
  match m with
  | .completes d =>
    if s.running.contains d then { s with pending := s.pending + 1, running := s.running.erase d } else s
  | .modeBecomes w => { s with modeNext := w }
  | .storesPixel a b =>
    if !s.running.isEmpty && !inBuffer s.latch a then { s with mem := Memory.write s.mem a b } else s
  | .timeoutFires => { s with timeoutEvent := true }

/-- Some moves, one after another. -/
def State.envMoves (s : State) : List EnvMove → State
  | [] => s
  | m :: rest => (s.envMove m).envMoves rest

/-- The engine's and the timer's turn before a step: the next moves of their list, or none when the list
has ended. A timeout event lasts this one step (entry 16). -/
def State.envTurn (s : State) : State :=
  match s.env with
  | [] => { s with timeoutEvent := false }
  | ms :: rest => { s with env := rest, timeoutEvent := false }.envMoves ms

/-- Acceptance and the checks of phase 0, in the order of 60_exceptions.md R204: an ill-formed request
is refused, then the forward and the backward reference must resolve, then the scan begins. No bus
event; `st` stays Idle (R150). -/
def State.accept (s : State) (r : Request) : Out :=
  if r.wf then
    match resolveRef r.forwardRef with
    | none => .next (s.raiseInvalidReference .fwd)
    | some f =>
      match resolveRef r.backwardRef with
      | none => .next (s.raiseInvalidReference .bwd)
      | some b =>
        .next { s with
          latch := some r
          fwd := f
          bwd := b
          outcome := none
          scan := some Scanner.start
          trace := [] }
  else .refused .requestIllFormed

/-- The host's turn, taken at Idle with no request latched: the next move of its list. With no move
left, or a request in a closed session, the DFE stays as it is (R176, 70_reset_and_hazards.md R243).
Only a request looks at `sessionOpen`. DESIGN CHOICE (entry 35): R240 and R243 give no meaning to a session
start in an open session, nor to a teardown, a read of `res` or a store by the host in a closed one; here
the start resets, the second teardown changes nothing more, and the read and the store are as in an open
session. -/
def State.hostTurn (s : State) : Out :=
  match s.host with
  | [] => .next s
  | .request r :: rest => if s.sessionOpen then { s with host := rest }.accept r else .next s
  | .readResult :: rest =>
    if s.resValid then .next { s with host := rest, delivered := some s.res }
    else .refused .resultNotReady
  | .store a b :: rest => .next { s with host := rest, mem := Memory.write s.mem a b }
  | .teardown :: rest => .next { s with host := rest, sessionOpen := false }
  | .sessionStart :: rest => .next { s with host := rest }.sessionStart

end Sys2Proof.Machine
end

