-- ==== Sys2Proof/Machine/Completion.lean ====
section
/-! DEFINITION. The meanings of steps 9 to 12: trigger, wait, acknowledge, mode exit
(spec/42_sequencer.md R172 to R175). -/

namespace Sys2Proof.Machine

/-- `TRIGGER`: the write starts the decode, and the state becomes Triggered (R172). -/
def execTrigger (p : Profile) (s : State) : Out :=
  .next { s.busWrite .trigger (triggerWord p) with st := .triggered }

/-- `WAIT(n)`: it ends by completion when `n` events are pending, and by a timeout event when the
parameter allows one; where both are there, a free value says which (R173, 60_exceptions.md R204, entry
14). Where neither is, the DFE holds: the next state waits still (60_exceptions.md R203). -/
def execWait (n : Nat) (s : State) : Out :=
  let w := s.beginWait n
  let done := decide (n ≤ s.pending)
  let timed := s.timeoutEvent && Config.waitTimeout
  if done && timed then
    if Config.waitChoice s.draws then .next w.drew.waitTimesOut else .next (w.drew.waitCompletes n)
  else if done then .next (w.waitCompletes n)
  else if timed then .next w.waitTimesOut
  else .next w

/-- `STATUS_CLEAR`: after either outcome of the wait (R174). -/
def execStatusClear (s : State) : Out :=
  .next ({ s with st := .completing }.busWrite .status Config.statusClearValue)

/-- `MODE_EXIT`: `r` is read afresh, and written back with the mode-select bits `MODE_IDLE`; the
transaction ends (R175, R177, R179). -/
def execModeExit (r : Word) (s : State) : Out := .next (s.modeRmw r Config.modeIdle).endTransaction

end Sys2Proof.Machine
end

