-- ==== Sys2Proof/Machine/Setup.lean ====
section
/-! DEFINITION. The meanings of steps 1 to 5: mode entry, quantisation tables, sizes, picture header,
priming (spec/42_sequencer.md R151 to R157). -/

namespace Sys2Proof.Machine

/-- `MODE_ENTER`: `r` is read, and written back with the mode-select bits 0 (R151). -/
def execModeEnter (r : Word) (s : State) : Out := .next (s.modeRmw r 0).advance

/-- `IQ_INTRA(i)` (R152). -/
def execIqIntra (i : BitVec 6) (value : Byte) (s : State) : Out :=
  .next (s.busWrite .iq (iqWord (intraTag i) value))

/-- `IQ_NONINTRA(i)` (R153). -/
def execIqNonintra (i : BitVec 6) (value : Byte) (s : State) : Out :=
  .next (s.busWrite .iq (iqWord (nonIntraTag i) value))

/-- `SIZE_MB` (R154). -/
def execSizeMb (widthMb heightMb : BitVec 8) (s : State) : Out :=
  .next (s.busWrite .mbSize (szmbWord widthMb heightMb))

/-- `SIZE_PX` (R155). -/
def execSizePx (widthPx heightPx : BitVec 12) (s : State) : Out :=
  .next (s.busWrite .frameSize (szpxWord widthPx heightPx))

/-- `PIC_HDR` (R156). -/
def execPicHdr (h : PicHdr) (s : State) : Out := .next (s.busWrite .picHdr h.word)

/-- `PRIME`: written in every transaction (R157, 70_reset_and_hazards.md R251). -/
def execPrime (s : State) : Out := .next (s.busWrite .prime Config.primeValue)

end Sys2Proof.Machine
end

