-- ==== Sys2Proof/Machine/Surfaces.lean ====
section
/-! DEFINITION. The meanings of steps 6 and 7: the reference and output surface addresses
(spec/42_sequencer.md R160 to R167). -/

namespace Sys2Proof.Machine

/-- `FWD_LUMA` (R160). -/
def execFwdLuma (addr : Word) (s : State) : Out := .next (s.busWrite .fwdLuma addr)

/-- `FWD_CHROMA` (R161). -/
def execFwdChroma (addr : Word) (s : State) : Out := .next (s.busWrite .fwdChroma addr)

/-- `BWD_LUMA` (R162). -/
def execBwdLuma (addr : Word) (s : State) : Out := .next (s.busWrite .bwdLuma addr)

/-- `BWD_CHROMA` (R163). -/
def execBwdChroma (addr : Word) (s : State) : Out := .next (s.busWrite .bwdChroma addr)

/-- `REC_LUMA` (R164). -/
def execRecLuma (addr : Word) (s : State) : Out := .next (s.busWrite .recLuma addr)

/-- `REC_CHROMA` (R165). -/
def execRecChroma (addr : Word) (s : State) : Out := .next (s.busWrite .recChroma addr)

/-- `ROT_LUMA` (R166). -/
def execRotLuma (addr : Word) (s : State) : Out := .next (s.busWrite .rotLuma addr)

/-- `ROT_CHROMA` (R167). -/
def execRotChroma (addr : Word) (s : State) : Out := .next (s.busWrite .rotChroma addr)

end Sys2Proof.Machine
end

