-- ==== Sys2Proof/Machine/Window.lean ====
section
/-! DEFINITION. The meanings of step 8: the bitstream window (spec/42_sequencer.md R168 to R171). -/

namespace Sys2Proof.Machine

/-- `VLD_OFFSET` (R168). -/
def execVldOffset (bits : Word) (s : State) : Out := .next (s.busWrite .vldOffset bits)

/-- `VLD_LEN` (R169). -/
def execVldLen (bits : Word) (s : State) : Out := .next (s.busWrite .vldLen bits)

/-- `VLD_END` (R170). -/
def execVldEnd (addr : Word) (s : State) : Out := .next (s.busWrite .vldEnd addr)

/-- `VLD_ADDR` (R171). -/
def execVldAddr (word : Word) (s : State) : Out := .next (s.busWrite .vldAddr word)

end Sys2Proof.Machine
end

