-- ==== Sys2Proof/Machine/Dispatch.lean ====
section
/-! DEFINITION. `exec`: one arm per constructor of `Instr`, each one call of its meaning. -/

namespace Sys2Proof.Machine

def exec (i : Instr) (s : State) : Host.Outcome State Fault Refusal :=
  match i with
  | .scQualifying m => Sys2Proof.Machine.execScQualifying m s
  | .scNonqualifying m => Sys2Proof.Machine.execScNonqualifying m s
  | .modeEnter r => Sys2Proof.Machine.execModeEnter r s
  | .iqIntra j value => Sys2Proof.Machine.execIqIntra j value s
  | .iqNonintra j value => Sys2Proof.Machine.execIqNonintra j value s
  | .sizeMb widthMb heightMb => Sys2Proof.Machine.execSizeMb widthMb heightMb s
  | .sizePx widthPx heightPx => Sys2Proof.Machine.execSizePx widthPx heightPx s
  | .picHdr h => Sys2Proof.Machine.execPicHdr h s
  | .prime => Sys2Proof.Machine.execPrime s
  | .fwdLuma addr => Sys2Proof.Machine.execFwdLuma addr s
  | .fwdChroma addr => Sys2Proof.Machine.execFwdChroma addr s
  | .bwdLuma addr => Sys2Proof.Machine.execBwdLuma addr s
  | .bwdChroma addr => Sys2Proof.Machine.execBwdChroma addr s
  | .recLuma addr => Sys2Proof.Machine.execRecLuma addr s
  | .recChroma addr => Sys2Proof.Machine.execRecChroma addr s
  | .rotLuma addr => Sys2Proof.Machine.execRotLuma addr s
  | .rotChroma addr => Sys2Proof.Machine.execRotChroma addr s
  | .vldOffset bits => Sys2Proof.Machine.execVldOffset bits s
  | .vldLen bits => Sys2Proof.Machine.execVldLen bits s
  | .vldEnd addr => Sys2Proof.Machine.execVldEnd addr s
  | .vldAddr word => Sys2Proof.Machine.execVldAddr word s
  | .trigger profile => Sys2Proof.Machine.execTrigger profile s
  | .wait n => Sys2Proof.Machine.execWait n s
  | .statusClear => Sys2Proof.Machine.execStatusClear s
  | .modeExit r => Sys2Proof.Machine.execModeExit r s

end Sys2Proof.Machine
end

