-- ==== Sys2Proof/Machine/Sequencer.lean ====
section
/-! DEFINITION. The transaction program (spec/42_sequencer.md R150): the operations of each step with the
operands the request latch gives them, and what the DFE does next. -/

namespace Sys2Proof.Machine

/-- `ENTER` and `EXIT` take the word read as an argument (R92). -/
def enterOps (r : Word) : List Instr := [.modeEnter r]

/-- `QTAB`: the intra entries, then the non-intra entries, in index order (R92, R121). -/
def qtabOps (q : Request) : List Instr :=
  (List.finRange 64).map (fun i => .iqIntra (BitVec.ofNat 6 i.val) q.intraQ[i]) ++
  (List.finRange 64).map (fun i => .iqNonintra (BitVec.ofNat 6 i.val) q.nonIntraQ[i])

/-- `SIZE` (R92, R154, R155): the fields of `SZMB` and `SZPX`. -/
def sizeOps (q : Request) : List Instr :=
  [.sizeMb (BitVec.ofNat 8 (mbCount q.width)) (BitVec.ofNat 8 (mbCount q.height)),
   .sizePx (BitVec.ofNat 12 (16 * mbCount q.width)) (BitVec.ofNat 12 (16 * mbCount q.height))]

/-- `PIC_HDR`: the fields of the word `PHW(latch)` (R156, entry 24). -/
def picHdrOp (q : Request) : Instr := .picHdr (PicHdr.ofWord (phw q.profile q.hdr))

/-- `SETREF F`: nothing for an absent reference (R92, R159). -/
def fwdOps : Option Surface → List Instr
  | some f => [.fwdLuma (lumaAddr f), .fwdChroma (chromaAddr f)]
  | none => []

/-- `SETREF B` (R92, R159). -/
def bwdOps : Option Surface → List Instr
  | some b => [.bwdLuma (lumaAddr b), .bwdChroma (chromaAddr b)]
  | none => []

/-- `SETOUT`: the same two addresses for both register pairs (R92, R164 to R167). -/
def outOps (s : Surface) : List Instr :=
  [.recLuma (lumaAddr s), .recChroma (chromaAddr s), .rotLuma (lumaAddr s), .rotChroma (chromaAddr s)]

/-- `SETVLD` (R92, R168 to R171). -/
def vldOps (q : Request) (off : Nat) : List Instr :=
  [.vldOffset (vldOffsetBits off), .vldLen (vldLenBits q off), .vldEnd (vldEndAddr q),
   .vldAddr (Config.vldAddrEncode (baseAddr q))]

/-- `EXIT` (R92). -/
def exitOps (r : Word) : List Instr := [.modeExit r]

/-- The operations of one step of R150: `off` is the scan's offset, `m` the word that a read of
`REG_MODE` in this step returns. -/
def stepOps (q : Request) (fwd bwd : Option Surface) (off : Nat) (m : Word) : Nat → List Instr
  | 1 => enterOps m
  | 2 => qtabOps q
  | 3 => sizeOps q
  | 4 => [picHdrOp q]
  | 5 => [.prime]
  | 6 => fwdOps fwd ++ bwdOps bwd
  | 7 => outOps q.output
  | 8 => vldOps q off
  | 9 => [.trigger q.profile]
  | 10 => [.wait Config.waitCount]
  | 11 => [.statusClear]
  | 12 => exitOps m
  | _ => []

/-- `DECODE`: the operations of steps 1 to 12 in order; `m1` and `m12` are the words the two reads of
`REG_MODE` return (R92, R150). -/
def program (q : Request) (fwd bwd : Option Surface) (off : Nat) (m1 m12 : Word) : List Instr :=
  enterOps m1 ++ qtabOps q ++ sizeOps q ++ [picHdrOp q] ++ [.prime] ++ (fwdOps fwd ++ bwdOps bwd) ++
  outOps q.output ++ vldOps q off ++ [.trigger q.profile] ++ [.wait Config.waitCount] ++ [.statusClear] ++
  exitOps m12

/-- The bus events of an operation (00_scope.md R16, 30_encoding.md R70): one write, a read and a write,
the wait's marker, or none for the scanner. -/
def busEvents : Instr → List BusEvent
  | .scQualifying _ => []
  | .scNonqualifying _ => []
  | .modeEnter r => [.read .mode r, .write .mode (modeWord r 0)]
  | .iqIntra i v => [.write .iq (iqWord (intraTag i) v)]
  | .iqNonintra i v => [.write .iq (iqWord (nonIntraTag i) v)]
  | .sizeMb w h => [.write .mbSize (szmbWord w h)]
  | .sizePx w h => [.write .frameSize (szpxWord w h)]
  | .picHdr h => [.write .picHdr h.word]
  | .prime => [.write .prime Config.primeValue]
  | .fwdLuma a => [.write .fwdLuma a]
  | .fwdChroma a => [.write .fwdChroma a]
  | .bwdLuma a => [.write .bwdLuma a]
  | .bwdChroma a => [.write .bwdChroma a]
  | .recLuma a => [.write .recLuma a]
  | .recChroma a => [.write .recChroma a]
  | .rotLuma a => [.write .rotLuma a]
  | .rotChroma a => [.write .rotChroma a]
  | .vldOffset b => [.write .vldOffset b]
  | .vldLen b => [.write .vldLen b]
  | .vldEnd a => [.write .vldEnd a]
  | .vldAddr w => [.write .vldAddr w]
  | .trigger p => [.write .trigger (triggerWord p)]
  | .wait n => [.wait n]
  | .statusClear => [.write .status Config.statusClearValue]
  | .modeExit r => [.read .mode r, .write .mode (modeWord r Config.modeIdle)]

/-- A bus event with its register's offset (00_scope.md R16). -/
def BusEvent.raw : BusEvent → RawEvent
  | .read r v => .read (Config.offset r) v
  | .write r v => .write (Config.offset r) v
  | .wait n => .wait n

/-- The operation the step pointer names (R23, R150). The scan's offset is `res.start_offset`. -/
def State.issue (s : State) : Option Instr :=
  match s.latch, s.pc with
  | some q, some p => (stepOps q s.fwd s.bwd s.res.startOffset s.modeNext p.step)[p.k]?
  | _, _ => none

/-- What the DFE does next. -/
inductive Activity where
  /-- At Idle with no request: the host's turn. -/
  | host
  /-- The scan looks at one byte. -/
  | pass (q : Request) (sc : Scanner)
  /-- The scan has reached the end of the buffer. -/
  | finish
  /-- An operation runs. -/
  | instr (i : Instr)
  /-- A read of the buffer that R14 forbids. -/
  | stop (f : Fault)
  /-- Nothing the DFE does. -/
  | unknown

/-- The scan's next look: a byte, the end of the buffer, or, once a prefix is complete, the start code
that the four bytes up to the marker decode to (40_scanner.md R103, R105). -/
def scanActivity (m : List Host.Cell) (q : Request) (sc : Scanner) : Activity :=
  if q.len ≤ sc.i then .finish
  else if sc.hit then
    match codeWindow m q sc.i with
    | .error f => .stop f
    | .ok w =>
      match decode (.window w) with
      | .ok i => .instr i
      | .error _ => .unknown
  else .pass q sc

/-- What the DFE does next, from its state: the host's turn at Idle, the scan in phase 0, and the
operation at the step pointer in a transaction (R150, R176). -/
def State.activity (s : State) : Activity :=
  match s.st with
  | .idle =>
    match s.latch with
    | none => .host
    | some q =>
      match s.scan with
      | some sc => scanActivity s.mem q sc
      | none => .unknown
  | .configuring | .triggered | .awaitingCompletion | .completing =>
    match s.issue with
    | some i => .instr i
    | none => .unknown

/-! ## Placing one operation -/

/-- A request with every field at its least value, for `State.place` on a state with no request. -/
def Request.least : Request where
  profile := .mpeg2
  hdr := PicHdr.ofWord 0
  intraQ := Vector.replicate 64 0
  nonIntraQ := Vector.replicate 64 0
  forwardRef := none
  backwardRef := none
  width := 1
  height := 1
  output := ⟨0, 0⟩
  bufVa := 0
  len := 0

/-- The state in which the sequencer stands at an operation of a transaction. -/
def State.standAt (s : State) (st : SeqState) (p : Pc) (q : Request) : State :=
  { s with st := st, pc := some p, latch := some q, scan := none, env := [] :: s.env }

/-- The state in which a scan stands at the marker of a start code, which is in the buffer. -/
def State.standAtCode (s : State) (q : Request) (m : Byte) : State :=
  { s with
    st := .idle
    pc := none
    latch := some { q with len := 4 }
    scan := some { i := 3, z := 2, hit := true }
    mem := Memory.write (Memory.write (Memory.write (Memory.write s.mem q.bufVa 0) (q.bufVa + 1) 0)
      (q.bufVa + 2) 1) (q.bufVa + 3) m
    env := [] :: s.env }

/-- The state in which the next thing the DFE does is the operation `i`: the step pointer, the request
latch and the other inputs from which the sequencer makes it are set, and nothing else (entry 22). The
address operations take their word from `PA`, so only their place is set. -/
def State.place (s : State) (i : Instr) : State :=
  let q := s.latch.getD Request.least
  match i with
  | .scQualifying m => s.standAtCode q m
  | .scNonqualifying m => s.standAtCode q m
  | .modeEnter r => { s with modeNext := r }.standAt .configuring ⟨1, 0⟩ q
  | .iqIntra j v => s.standAt .configuring ⟨2, j.toNat⟩ { q with intraQ := q.intraQ.set j.toNat v j.isLt }
  | .iqNonintra j v =>
    s.standAt .configuring ⟨2, 64 + j.toNat⟩ { q with nonIntraQ := q.nonIntraQ.set j.toNat v j.isLt }
  | .sizeMb w h => s.standAt .configuring ⟨3, 0⟩ { q with width := 16 * w.toNat, height := 16 * h.toNat }
  | .sizePx w h => s.standAt .configuring ⟨3, 1⟩ { q with width := w.toNat, height := h.toNat }
  | .picHdr h => s.standAt .configuring ⟨4, 0⟩ { q with profile := .mpeg2, hdr := h }
  | .prime => s.standAt .configuring ⟨5, 0⟩ q
  | .fwdLuma _ => { s with fwd := some (s.fwd.getD ⟨0, 0⟩) }.standAt .configuring ⟨6, 0⟩ q
  | .fwdChroma _ => { s with fwd := some (s.fwd.getD ⟨0, 0⟩) }.standAt .configuring ⟨6, 1⟩ q
  | .bwdLuma _ => { s with fwd := none, bwd := some (s.bwd.getD ⟨0, 0⟩) }.standAt .configuring ⟨6, 0⟩ q
  | .bwdChroma _ => { s with fwd := none, bwd := some (s.bwd.getD ⟨0, 0⟩) }.standAt .configuring ⟨6, 1⟩ q
  | .recLuma _ => s.standAt .configuring ⟨7, 0⟩ q
  | .recChroma _ => s.standAt .configuring ⟨7, 1⟩ q
  | .rotLuma _ => s.standAt .configuring ⟨7, 2⟩ q
  | .rotChroma _ => s.standAt .configuring ⟨7, 3⟩ q
  | .vldOffset b =>
    { s with res := s.res.withScan (b.toNat / 8) true }.standAt .configuring ⟨8, 0⟩ q
  | .vldLen b =>
    { s with res := s.res.withScan 0 true }.standAt .configuring ⟨8, 1⟩ { q with len := b.toNat / 8 }
  | .vldEnd _ => s.standAt .configuring ⟨8, 2⟩ q
  | .vldAddr _ => s.standAt .configuring ⟨8, 3⟩ q
  | .trigger p => s.standAt .configuring ⟨9, 0⟩ { q with profile := p }
  | .wait _ => s.standAt .triggered ⟨10, 0⟩ q
  | .statusClear => s.standAt .awaitingCompletion ⟨11, 0⟩ q
  | .modeExit r => { s with modeNext := r }.standAt .completing ⟨12, 0⟩ q

end Sys2Proof.Machine
end

