-- ==== Sys2Proof/Machine/Step.lean ====
section
/-! DEFINITION. One step of the machine: first the engine's and the timer's turn, then what the DFE does
next (spec/10_state.md R20), and the placing of one table word for the host's probes. -/

namespace Sys2Proof.Machine

/-- One step. -/
def step (s : State) : Host.Outcome State Fault Refusal :=
  let e := s.envTurn
  match e.activity with
  | .host => e.hostTurn
  | .pass q sc => e.scanPass q sc
  | .finish => .next e.scanEnd
  | .instr i => exec i e
  | .stop f => .fault f
  | .unknown => .refused .notDfeOperation

/-- The state in which the next step runs the operation of a table word (entries 21 and 22). -/
def State.withFetchWord (s : State) (nbits w : Nat) : State :=
  match decodeTableWord nbits w with
  | some i => s.place i
  | none => s

end Sys2Proof.Machine
end

