-- ==== Sys2Proof/Safety.lean ====
section
/-! DEFINITION. The terms in which claims speak of the machine: what one bus write changes and keeps, the
invariants of the sequencer, the scan, the trace, the memory and the registers, the spec's premises
`CleanEntry` and `LaunchOK` (spec/70_reset_and_hazards.md R242, R245). -/

namespace Sys2Proof.Machine

/-! ## What an operation keeps -/

/-- The request, its resolved surfaces, the scan, the result and the host's side are the same. -/
def keepsTransaction (s t : State) : Prop :=
  t.latch = s.latch ∧ t.fwd = s.fwd ∧ t.bwd = s.bwd ∧ t.scan = s.scan ∧ t.res = s.res ∧
  t.resValid = s.resValid ∧ t.sessionOpen = s.sessionOpen ∧ t.delivered = s.delivered ∧
  t.host = s.host ∧ t.env = s.env ∧ t.timeoutEvent = s.timeoutEvent

/-- Every byte of memory reads as before. -/
def keepsMemory (s t : State) : Prop := ∀ a : Nat, Memory.read t.mem a = Memory.read s.mem a

/-- Every engine register but one reads as before. -/
def keepsRegsBut (r : Reg) (s t : State) : Prop := ∀ r' : Reg, r' ≠ r → t.reg r' = s.reg r'

/-- The engine's side as the DFE counts it: completion events, decodes, draws. -/
def keepsEngine (s t : State) : Prop :=
  t.pending = s.pending ∧ t.decodes = s.decodes ∧ t.running = s.running ∧ t.leftover = s.leftover ∧
  t.modeNext = s.modeNext ∧ t.draws = s.draws

/-- `t` is `s` after the one bus event `W(r, v)`, with the step pointer advanced by one operation and
nothing else changed but what the word does to the engine's table. -/
def wroteRegister (s t : State) (r : Reg) (v : Word) : Prop :=
  t.trace = s.trace ++ [.write r v] ∧ t.reg r = some v ∧ keepsRegsBut r s t ∧
  t.pc = s.pc.map (Pc.after s.fwd s.bwd) ∧ keepsTransaction s t ∧ t.outcome = s.outcome ∧ keepsMemory s t

/-- The inferred quantisation table is the same. -/
def keepsTable (s t : State) : Prop := t.qt = s.qt

/-! ## Invariants -/

/-- The memory is in its canonical form. -/
def MemInv (s : State) : Prop := Memory.wf s.mem = true

/-- The sequencer's fields agree with its state (10_state.md R22, R23, R46): a scan exists exactly in
phase 0, a step pointer exactly outside Idle and then at an operation of the program, and an outcome
exactly once the wait has ended. -/
def SeqInv (s : State) : Prop :=
  match s.st with
  | .idle => s.pc = none ∧ s.outcome = none ∧ s.scan.isSome = s.latch.isSome
  | .configuring =>
    s.latch.isSome = true ∧ s.scan = none ∧ s.outcome = none ∧
    ∃ p, s.pc = some p ∧ 1 ≤ p.step ∧ p.step ≤ 9 ∧ p.k < opCount s.fwd s.bwd p.step
  | .triggered => s.latch.isSome = true ∧ s.scan = none ∧ s.outcome = none ∧ s.pc = some ⟨10, 0⟩
  | .awaitingCompletion =>
    s.latch.isSome = true ∧ s.scan = none ∧
    ((s.outcome = none ∧ s.pc = some ⟨10, 0⟩) ∨ (s.outcome.isSome = true ∧ s.pc = some ⟨11, 0⟩))
  | .completing =>
    s.latch.isSome = true ∧ s.scan = none ∧ s.outcome.isSome = true ∧ s.pc = some ⟨12, 0⟩

/-- A latched request is well formed and its references are resolved to the surfaces held (10_state.md
R24, 42_sequencer.md R158). -/
def LatchInv (s : State) : Prop :=
  ∀ q, s.latch = some q →
    q.wf = true ∧ resolveRef q.forwardRef = some s.fwd ∧ resolveRef q.backwardRef = some s.bwd

/-- R102: the least offset of a qualifying code, or 0 and not found. -/
def isScanResult (buf : List Byte) (off : Nat) (found : Bool) : Prop :=
  (found = true ∧ isCodeAt buf off = true ∧ ∀ p, p < off → isCodeAt buf p = false) ∨
  (found = false ∧ off = 0 ∧ ∀ p, isCodeAt buf p = false)

/-- The scanner's state is right for the bytes before it: its counter counts the zeros just read, a hit
follows `00 00 01`, and no qualifying code begins before the place the scanner may still report. -/
def scannerRight (buf : List Byte) (sc : Scanner) : Prop :=
  sc.i ≤ buf.length ∧ sc.z ≤ 2 ∧
  (if sc.hit = true then
    3 ≤ sc.i ∧ buf[sc.i - 3]? = some 0 ∧ buf[sc.i - 2]? = some 0 ∧ buf[sc.i - 1]? = some 1 ∧
    ∀ p, isCodeAt buf p = true → sc.i - 3 ≤ p
  else
    sc.z ≤ sc.i ∧ (∀ j, j < sc.z → buf[sc.i - 1 - j]? = some 0) ∧
    ∀ p, isCodeAt buf p = true → sc.i - sc.z ≤ p)

/-- Phase 0 scans the request's buffer rightly, and in the rest of the transaction the result register
holds R102's offset and flag for that buffer. -/
def ScanInv (s : State) : Prop :=
  ∀ q, s.latch = some q →
    if s.st = .idle then ∀ sc, s.scan = some sc → scannerRight (bufBytes s.mem q) sc
    else isScanResult (bufBytes s.mem q) s.res.startOffset (!s.res.noStartCode)

/-- The operations of R150's program before a place of it. -/
def opsBefore (q : Request) (fwd bwd : Option Surface) (off : Nat) (m1 : Word) (p : Pc) : List Instr :=
  (List.range p.step).flatMap (stepOps q fwd bwd off m1) ++ (stepOps q fwd bwd off m1 p.step).take p.k

/-- The marker of a wait that holds. -/
def waitMarker (s : State) (p : Pc) : List BusEvent :=
  if s.st = .awaitingCompletion ∧ p.step = 10 then [.wait Config.waitCount] else []

/-- The bus trace holds exactly the events of R150's program up to the step pointer, in order; in phase 0
it holds none. `m1` is the word the read of step 1 returned. -/
def TraceInv (s : State) : Prop :=
  ∀ q, s.latch = some q →
    if s.st = .idle then s.trace = []
    else ∀ p, s.pc = some p → ∃ m1,
      s.trace = (opsBefore q s.fwd s.bwd s.res.startOffset m1 p).flatMap busEvents ++ waitMarker s p

/-- The last word a trace writes to a register. -/
def lastWrite (r : Reg) : List BusEvent → Option Word
  | [] => none
  | .write r' v :: rest =>
    match lastWrite r rest with
    | some w => some w
    | none => if r' = r then some v else none
  | .read _ _ :: rest => lastWrite r rest
  | .wait _ :: rest => lastWrite r rest

/-- `EReg` holds the last word the trace wrote to each register but `REG_STATUS`, which stays unknown
(10_state.md R27, 70_reset_and_hazards.md R241). -/
def RegInv (s : State) : Prop :=
  s.reg .status = none ∧ ∀ r v, r ≠ .status → lastWrite r s.trace = some v → s.reg r = some v

/-! ## The words on the bus -/

/-- The bits of a register's words that R86 has at zero (30_encoding.md). -/
def zeroBits : Reg → Word
  | .iq => 0xFFFF8000
  | .mbSize => 0xFFFF0000
  | .frameSize => 0xF00FF00F
  | .vldOffset | .vldLen => 0x00000007
  | .mode | .picHdr | .prime | .fwdLuma | .fwdChroma | .bwdLuma | .bwdChroma
  | .recLuma | .recChroma | .rotLuma | .rotChroma | .vldEnd | .vldAddr | .trigger | .status => 0

/-! ## The spec's premises -/

/-- `CleanEntry` (70_reset_and_hazards.md R242): Idle, no request latched, nothing pending, and no
transaction since reset that ended with `HW_TIMEOUT` while its engine work was running (entry 13). -/
def CleanEntry (s : State) : Prop :=
  s.st = .idle ∧ s.latch = none ∧ s.pending = 0 ∧ s.leftover = false

/-- The addresses that a transaction for a request translates (20_memory.md R58): both planes of the
output, the buffer, and both planes of the surface that each present reference resolves to. -/
def translates (q : Request) (a : Nat) : Prop :=
  a = q.output.va ∨ a = q.output.va + q.output.planeSize ∨ a = q.bufVa ∨
  ∃ h f, (q.forwardRef = some h ∨ q.backwardRef = some h) ∧ Config.resolve h = some f ∧
    (a = f.va ∨ a = f.va + f.planeSize)

/-- `LaunchOK(req)` (70_reset_and_hazards.md R245). The stability duty of R252 is no premise here: the
other agents have no move that breaks it (entries 18, 19). -/
def LaunchOK (s : State) (q : Request) : Prop :=
  s.st = .idle ∧ q.wf = true ∧ Config.alignOk (baseAddr q) = true ∧ Config.coherent q = true

end Sys2Proof.Machine
end

