-- ==== Sys2Proof/Certificates/Slice0/Obligations.lean ====
section
/-! DEFINITION. The statements for the provers, each a formalisation of the spec's rules about the machine
or a consequence of them. -/

open Sys2Proof Sys2Proof.Machine

/-! ## Reset -/

/-- R46: what reset leaves. `pc`, the scanner and the latch are undefined or empty, every engine register
is unknown, nothing is pending, the first read of `REG_MODE` will return a draw, and reading `res` is
refused. -/
def Obligations.ResetLeavesIdle : Prop :=
  State.reset.st = .idle ∧ State.reset.pc = none ∧ State.reset.latch = none ∧
  State.reset.scan = none ∧ (∀ r, State.reset.reg r = none) ∧ State.reset.pending = 0 ∧
  State.reset.modeNext = Config.modeDraw 0 ∧
  step { State.reset with host := [.readResult] } = .refused .resultNotReady

/-- The reset state meets every invariant that the steps keep, and the spec's `CleanEntry` (R242). -/
def Obligations.ResetMeetsInvariants : Prop :=
  MemInv State.reset ∧ SeqInv State.reset ∧ LatchInv State.reset ∧ ScanInv State.reset ∧
  TraceInv State.reset ∧ RegInv State.reset ∧ CleanEntry State.reset

/-! ## The step and the decoder -/

/-- A step runs the decoded operation: after the engine's and the timer's turn, the operation that the
step pointer names (R150), or the one that the four bytes after a complete prefix decode to (R103). -/
def Obligations.StepRunsDecodedOperation : Prop :=
  (∀ (s : State) (i : Instr), s.envTurn.st ≠ .idle → s.envTurn.issue = some i →
    step s = exec i s.envTurn) ∧
  (∀ (s : State) (q : Request) (sc : Scanner) (w : Word) (i : Instr),
    s.envTurn.st = .idle → s.envTurn.latch = some q → s.envTurn.scan = some sc → sc.hit = true →
    sc.i < q.len → codeWindow s.envTurn.mem q sc.i = .ok w → decode (.window w) = .ok i →
    step s = exec i s.envTurn)

/-- The trace-decoding vectors D1 to D8 and D12 of 95_test_vectors.md Part 4 (an offset that no register
has), and start codes with the markers `AF`, `B0` and `00`. -/
def Obligations.DecodedWordsMatchVectors : Prop :=
  decode (.write (Config.offset .iq) 0x00004010) = .ok (.iqIntra 0 0x10) ∧
  decode (.write (Config.offset .iq) 0x00007FFF) = .ok (.iqIntra 63 0xFF) ∧
  decode (.write (Config.offset .iq) 0x00003F10) = .ok (.iqNonintra 63 0x10) ∧
  decode (.write (Config.offset .iq) 0x00000000) = .ok (.iqNonintra 0 0) ∧
  decode (.write (Config.offset .iq) 0x00008010) = .error .reservedBit ∧
  decode (.write (Config.offset .mbSize) 0x00010000) = .error .reservedBit ∧
  decode (.write (Config.offset .mbSize) 0x00000805) = .ok (.sizeMb 8 5) ∧
  decode (.write (Config.offset .frameSize) 0x00800051) = .error .reservedBit ∧
  decode (.write (Config.offset .frameSize) 0x00800050) = .ok (.sizePx 128 80) ∧
  decode (.write (Config.offset .vldOffset) 0x00000031) = .error .reservedBit ∧
  decode (.window 0x000001AF) = .ok (.scQualifying 0xAF) ∧
  decode (.window 0x000001B0) = .ok (.scNonqualifying 0xB0) ∧
  decode (.window 0x00000100) = .ok (.scNonqualifying 0) ∧
  decode (.window 0x00000205) = .error .notStartCode ∧
  (∀ off w, (∀ r, Config.offset r ≠ off) → decode (.write off w) = .error .unknownOffset)

/-- Decode and encode agree: every well-formed operation, with every operand its encoding admits, is read
back from its event. -/
def Obligations.DecodeEncodeRoundTrip : Prop :=
  ∀ i : Instr, i.wf = true → decode (encode i) = .ok i

/-- Every event has at most one meaning: an event that decodes is the event of what it decodes to, and
that operation is well formed. -/
def Obligations.DecodedEventIsEncoded : Prop :=
  ∀ (ev : Event) (i : Instr), decode ev = .ok i → encode i = ev ∧ i.wf = true

/-- What the sequencer and the scanner put before the DFE is a well-formed operation, and the word that its
event writes has zeros in the bits that R86 has at zero. R86 speaks of the accepted ranges. For a latched
size outside R24's range the zero bits are the model's cut of the operands to their fields (entry 25,
DEDUCED). -/
def Obligations.IssuedOperationsWellFormed : Prop :=
  ∀ (s : State) (i : Instr), s.activity = .instr i →
    i.wf = true ∧ ∀ (r : Reg) (w : Word), encode i = .write (Config.offset r) w → w &&& zeroBits r = 0

/-- The raw bus trace of a transaction, whole or broken off after any number of its operations, decodes to
those operations, in order. -/
def Obligations.TraceDecodesToProgram : Prop :=
  ∀ (q : Request) (fwd bwd : Option Surface) (off : Nat) (m1 m12 : Word) (n : Nat),
    decodeTrace ((((program q fwd bwd off m1 m12).take n).flatMap busEvents).map BusEvent.raw) =
      .ok ((program q fwd bwd off m1 m12).take n)

/-- R87: the operations of a transaction, from its first on, stand in a DFE trace's order; a trigger before
the window's address write, which 95_test_vectors.md D13 names, stands in none, and a trace that begins
with it is rejected; a trace whose events are the DFE's one by one, but not in the order, is rejected as
out of order; and a trace that is accepted has the order and is the trace of what it decodes to. -/
def Obligations.ProgramHasDfeOrder : Prop :=
  (∀ (q : Request) (fwd bwd : Option Surface) (off : Nat) (m1 m12 : Word) (n : Nat),
    isDfeOrder ((program q fwd bwd off m1 m12).take n) = true) ∧
  (∀ (l1 l2 l3 : List Instr) (p : Profile) (w : Word),
    isDfeOrder (l1 ++ .trigger p :: l2 ++ .vldAddr w :: l3) = false) ∧
  (∀ p : Profile, decodeTrace [.write (Config.offset .trigger) (triggerWord p)] = .error .wrongOrder) ∧
  (∀ (raw : List RawEvent) (is : List Instr), decodeEvents true raw = .ok is → isDfeOrder is = false →
    decodeTrace raw = .error .wrongOrder) ∧
  (∀ (raw : List RawEvent) (is : List Instr), decodeTrace raw = .ok is →
    isDfeOrder is = true ∧ raw = (is.flatMap busEvents).map BusEvent.raw)

/-- The model's interface for single table words (entry 22): a word that the table decoder reads is the
first operation that runs when it is placed in the reset state. -/
def Obligations.PlacedTableWordRunsFirst : Prop :=
  ∀ (w : Nat) (i : Instr), decodeTableWord 32 w = some i →
    step (State.reset.withFetchWord 32 w) = exec i (State.reset.withFetchWord 32 w).envTurn

/-! ## The encoder -/

/-- R122: `QTAB` has 128 words; word `k` carries tag `64 + k` for `k < 64` and `k − 64` after; bit 14 is
set exactly for the first 64; each tag occurs exactly once. -/
def Obligations.QtabTagsInOrder : Prop :=
  ∀ a b : Vector Byte 64,
    (qtab a b).length = 128 ∧
    (∀ (k : Nat) (w : Word), (qtab a b)[k]? = some w →
      (w.extractLsb' 8 7).toNat = (if k < 64 then 64 + k else k - 64) ∧
      w.getLsbD 14 = decide (k < 64)) ∧
    (∀ tag : BitVec 7, ∃ k, (∃ w : Word, (qtab a b)[k]? = some w ∧ w.extractLsb' 8 7 = tag) ∧
      ∀ (k' : Nat) (w : Word), (qtab a b)[k']? = some w → w.extractLsb' 8 7 = tag → k' = k)

/-- The value of each quantisation word is its matrix entry, whatever the entry is (R121, R123). -/
def Obligations.QtabCarriesEntries : Prop :=
  ∀ (a b : Vector Byte 64) (i : Fin 64),
    (∃ w : Word, (qtab a b)[i.val]? = some w ∧ w.extractLsb' 0 8 = a[i] ∧ w.extractLsb' 15 17 = 0) ∧
    (∃ w : Word, (qtab a b)[64 + i.val]? = some w ∧ w.extractLsb' 0 8 = b[i] ∧ w.extractLsb' 15 17 = 0)

/-- R128, with the layouts of R73 and R74: in the accepted range the counts and sizes keep to their
fields, and every other bit is zero. -/
def Obligations.SizeWordsKeepFieldsApart : Prop :=
  ∀ w h : Nat, 1 ≤ w → w ≤ 4080 → 1 ≤ h → h ≤ 4080 →
    1 ≤ mbCount w ∧ mbCount w ≤ 255 ∧ 16 ≤ 16 * mbCount w ∧ 16 * mbCount w ≤ 4080 ∧
    w ≤ 16 * mbCount w ∧ 16 * mbCount w < w + 16 ∧
    ((szmb w h).extractLsb' 8 8).toNat = mbCount w ∧ ((szmb w h).extractLsb' 0 8).toNat = mbCount h ∧
    (szmb w h).extractLsb' 16 16 = 0 ∧
    ((szpx w h).extractLsb' 16 12).toNat = 16 * mbCount w ∧
    ((szpx w h).extractLsb' 0 12).toNat = 16 * mbCount h ∧ szpx w h &&& 0xF00FF00F#32 = 0

/-- R131 to R133, with the layout of R75: each field stands at its bits of the word; for MPEG2 the header
word is the fields' word, from which every field is recovered; for MPEG1 the parameter's pattern is ORed
in, which only sets bits; and every word is the word of its fields. -/
def Obligations.PicHdrWordByProfile : Prop :=
  (∀ h : PicHdr,
    h.word.extractLsb' 28 4 = h.pictureCodingType ∧ h.word.extractLsb' 24 4 = h.fCode00 ∧
    h.word.extractLsb' 20 4 = h.fCode01 ∧ h.word.extractLsb' 16 4 = h.fCode10 ∧
    h.word.extractLsb' 12 4 = h.fCode11 ∧ h.word.extractLsb' 10 2 = h.intraDcPrecision ∧
    h.word.extractLsb' 8 2 = h.pictureStructure ∧ h.word.extractLsb' 7 1 = h.topFieldFirst ∧
    h.word.extractLsb' 6 1 = h.framePredFrameDct ∧
    h.word.extractLsb' 5 1 = h.concealmentMotionVectors ∧ h.word.extractLsb' 4 1 = h.qScaleType ∧
    h.word.extractLsb' 3 1 = h.intraVlcFormat ∧ h.word.extractLsb' 2 1 = h.alternateScan ∧
    h.word.extractLsb' 1 1 = h.fullPelForwardVector ∧
    h.word.extractLsb' 0 1 = h.fullPelBackwardVector) ∧
  (∀ h : PicHdr, phw .mpeg2 h = h.word ∧ PicHdr.ofWord (phw .mpeg2 h) = h) ∧
  (∀ (h : PicHdr) (k : Nat),
    (phw .mpeg1 h).getLsbD k = (h.word.getLsbD k || Config.mpeg1PicHdrOr.getLsbD k)) ∧
  (∀ w : Word, (PicHdr.ofWord w).word = w)

/-- The window words do not wrap in the accepted range (R77, R78), and the end address wraps mod 2^32
(R170). -/
def Obligations.WindowWordsExact : Prop :=
  ∀ (q : Request) (off : Nat), q.len ≤ Config.vbvCapacity → off ≤ q.len →
    (vldOffsetBits off).toNat = off * 8 ∧ (vldLenBits q off).toNat = (q.len - off) * 8 ∧
    (vldEndAddr q).toNat = ((baseAddr q).toNat + Config.vbvCapacity - 1) % 2 ^ 32

/-- R23: a transaction has 145 operations, two more for each reference that is present, and so at most
149. -/
def Obligations.ProgramLength : Prop :=
  ∀ (q : Request) (fwd bwd : Option Surface) (off : Nat) (m1 m12 : Word),
    (program q fwd bwd off m1 m12).length =
      145 + (if fwd.isSome then 2 else 0) + (if bwd.isSome then 2 else 0)

/-- R150: the bus events of a transaction are the rules' words at the rules' registers, in the rules'
order. -/
def Obligations.ProgramEventsAreRuleWords : Prop :=
  ∀ (q : Request) (fwd bwd : Option Surface) (off : Nat) (m1 m12 : Word),
    1 ≤ q.width → q.width ≤ 4080 → 1 ≤ q.height → q.height ≤ 4080 →
    (program q fwd bwd off m1 m12).flatMap busEvents =
      [.read .mode m1, .write .mode (m1 &&& 0xFFFFFFF0#32)] ++
      (qtab q.intraQ q.nonIntraQ).map (BusEvent.write .iq) ++
      [.write .mbSize (szmb q.width q.height), .write .frameSize (szpx q.width q.height),
       .write .picHdr (phw q.profile q.hdr), .write .prime Config.primeValue] ++
      (match fwd with
       | some f => [.write .fwdLuma (Config.pa f.va), .write .fwdChroma (Config.pa (f.va + f.planeSize))]
       | none => []) ++
      (match bwd with
       | some b => [.write .bwdLuma (Config.pa b.va), .write .bwdChroma (Config.pa (b.va + b.planeSize))]
       | none => []) ++
      [.write .recLuma (Config.pa q.output.va),
       .write .recChroma (Config.pa (q.output.va + q.output.planeSize)),
       .write .rotLuma (Config.pa q.output.va),
       .write .rotChroma (Config.pa (q.output.va + q.output.planeSize)),
       .write .vldOffset (mod32 (off * 8)), .write .vldLen (mod32 ((q.len - off) * 8)),
       .write .vldEnd (mod32 ((Config.pa q.bufVa).toNat + Config.vbvCapacity - 1)),
       .write .vldAddr (Config.vldAddrEncode (Config.pa q.bufVa)),
       .write .trigger
         (match q.profile with
          | .mpeg1 => Config.triggerMpeg1
          | .mpeg2 => Config.triggerMpeg2),
       .wait 1, .write .status Config.statusClearValue, .read .mode m12,
       .write .mode ((m12 &&& 0xFFFFFFF0#32) ||| zext32 Config.modeIdle)]

/-! ## What the operations do: completion, result and frame -/

/-- `MODE_ENTER` (R151): the word read is written back with bits [3:0] zero, even if unchanged. The next
read of `REG_MODE` returns a fresh draw (R27, a free value of entry 9). Nothing else of the machine
changes. -/
def Obligations.ModeEnterClearsModeBits : Prop :=
  ∀ (r : Word) (s : State), ∃ t, exec (.modeEnter r) s = .next t ∧
    t.trace = s.trace ++ [.read .mode r, .write .mode (r &&& 0xFFFFFFF0#32)] ∧
    t.reg .mode = some (r &&& 0xFFFFFFF0#32) ∧ keepsRegsBut .mode s t ∧
    t.pc = s.pc.map (Pc.after s.fwd s.bwd) ∧ keepsTransaction s t ∧ t.outcome = s.outcome ∧
    keepsMemory s t ∧ keepsTable s t ∧ t.st = s.st ∧ t.pending = s.pending ∧
    t.decodes = s.decodes ∧ t.running = s.running ∧ t.leftover = s.leftover ∧
    t.modeNext = Config.modeDraw s.draws ∧ t.draws = s.draws + 1

/-- `MODE_EXIT` (R175, R177): the word read is written back with the mode bits `MODE_IDLE`, and the
transaction ends: Idle, no request, the code by the wait's outcome, and the scan's offset and flag still
in `res`. The model's own: the resolved surfaces and the outcome are cleared (entry 30, DESIGN CHOICE),
and an end by timeout while the transaction's own decode runs is noted (entry 13, its form of R242). The
next read of `REG_MODE` returns a fresh draw (R27, a free value of entry 9). Nothing else changes. -/
def Obligations.ModeExitEndsTransaction : Prop :=
  ∀ (r : Word) (s : State), ∃ t, exec (.modeExit r) s = .next t ∧
    t.trace = s.trace ++
      [.read .mode r, .write .mode ((r &&& 0xFFFFFFF0#32) ||| zext32 Config.modeIdle)] ∧
    t.reg .mode = some ((r &&& 0xFFFFFFF0#32) ||| zext32 Config.modeIdle) ∧ keepsRegsBut .mode s t ∧
    t.st = .idle ∧ t.pc = none ∧ t.latch = none ∧ t.fwd = none ∧ t.bwd = none ∧ t.outcome = none ∧
    t.res.code = (if s.outcome = some .timeout then .hwTimeout else .ok) ∧ t.res.info = .none ∧
    t.res.startOffset = s.res.startOffset ∧ t.res.noStartCode = s.res.noStartCode ∧
    t.resValid = true ∧ t.scan = s.scan ∧ t.sessionOpen = s.sessionOpen ∧ t.delivered = s.delivered ∧
    t.host = s.host ∧ t.env = s.env ∧ t.timeoutEvent = s.timeoutEvent ∧ t.pending = s.pending ∧
    t.decodes = s.decodes ∧ t.running = s.running ∧
    t.leftover = (s.leftover || (decide (s.outcome = some .timeout) && s.running.contains s.decodes)) ∧
    t.modeNext = Config.modeDraw s.draws ∧ t.draws = s.draws + 1 ∧ keepsTable s t ∧ keepsMemory s t

/-- `IQ_INTRA` and `IQ_NONINTRA` (R152, R153, R72): the word `(tag << 8) | value` goes to `REG_IQ`, with
tag `64 + i` or `i`; the inferred table (R32) gets the value at the tag and keeps every other entry. -/
def Obligations.IqWritesOneEntry : Prop :=
  (∀ (i : BitVec 6) (v : Byte) (s : State), ∃ t, exec (.iqIntra i v) s = .next t ∧
    wroteRegister s t .iq (qw (BitVec.ofNat 7 (64 + i.toNat)) v) ∧ keepsEngine s t ∧ t.st = s.st ∧
    ∀ j : Fin 128, t.qt[j] = if j.val = 64 + i.toNat then v else s.qt[j]) ∧
  (∀ (i : BitVec 6) (v : Byte) (s : State), ∃ t, exec (.iqNonintra i v) s = .next t ∧
    wroteRegister s t .iq (qw (BitVec.ofNat 7 i.toNat) v) ∧ keepsEngine s t ∧ t.st = s.st ∧
    ∀ j : Fin 128, t.qt[j] = if j.val = i.toNat then v else s.qt[j])

/-- The operations that are one plain register write (R154 to R157, R160 to R171): `SIZE_MB`, `SIZE_PX`,
`PIC_HDR`, `PRIME`, the eight surface addresses and the four window words. Each completes in every
state, writes its word to its own register, and changes nothing else. -/
def Obligations.PlainWritesTouchOneRegister : Prop :=
  (∀ (w h : BitVec 8) (s : State), ∃ t, exec (.sizeMb w h) s = .next t ∧
    wroteRegister s t .mbSize ((zext32 w <<< 8) ||| zext32 h) ∧ keepsEngine s t ∧ keepsTable s t ∧ t.st = s.st) ∧
  (∀ (w h : BitVec 12) (s : State), ∃ t, exec (.sizePx w h) s = .next t ∧
    wroteRegister s t .frameSize ((zext32 w <<< 16) ||| zext32 h) ∧ keepsEngine s t ∧ keepsTable s t ∧
    t.st = s.st) ∧
  (∀ (h : PicHdr) (s : State), ∃ t, exec (.picHdr h) s = .next t ∧
    wroteRegister s t .picHdr h.word ∧ keepsEngine s t ∧ keepsTable s t ∧ t.st = s.st) ∧
  (∀ s : State, ∃ t, exec .prime s = .next t ∧
    wroteRegister s t .prime Config.primeValue ∧ keepsEngine s t ∧ keepsTable s t ∧ t.st = s.st) ∧
  (∀ (a : Word) (s : State), ∃ t, exec (.fwdLuma a) s = .next t ∧
    wroteRegister s t .fwdLuma a ∧ keepsEngine s t ∧ keepsTable s t ∧ t.st = s.st) ∧
  (∀ (a : Word) (s : State), ∃ t, exec (.fwdChroma a) s = .next t ∧
    wroteRegister s t .fwdChroma a ∧ keepsEngine s t ∧ keepsTable s t ∧ t.st = s.st) ∧
  (∀ (a : Word) (s : State), ∃ t, exec (.bwdLuma a) s = .next t ∧
    wroteRegister s t .bwdLuma a ∧ keepsEngine s t ∧ keepsTable s t ∧ t.st = s.st) ∧
  (∀ (a : Word) (s : State), ∃ t, exec (.bwdChroma a) s = .next t ∧
    wroteRegister s t .bwdChroma a ∧ keepsEngine s t ∧ keepsTable s t ∧ t.st = s.st) ∧
  (∀ (a : Word) (s : State), ∃ t, exec (.recLuma a) s = .next t ∧
    wroteRegister s t .recLuma a ∧ keepsEngine s t ∧ keepsTable s t ∧ t.st = s.st) ∧
  (∀ (a : Word) (s : State), ∃ t, exec (.recChroma a) s = .next t ∧
    wroteRegister s t .recChroma a ∧ keepsEngine s t ∧ keepsTable s t ∧ t.st = s.st) ∧
  (∀ (a : Word) (s : State), ∃ t, exec (.rotLuma a) s = .next t ∧
    wroteRegister s t .rotLuma a ∧ keepsEngine s t ∧ keepsTable s t ∧ t.st = s.st) ∧
  (∀ (a : Word) (s : State), ∃ t, exec (.rotChroma a) s = .next t ∧
    wroteRegister s t .rotChroma a ∧ keepsEngine s t ∧ keepsTable s t ∧ t.st = s.st) ∧
  (∀ (a : Word) (s : State), ∃ t, exec (.vldOffset a) s = .next t ∧
    wroteRegister s t .vldOffset a ∧ keepsEngine s t ∧ keepsTable s t ∧ t.st = s.st) ∧
  (∀ (a : Word) (s : State), ∃ t, exec (.vldLen a) s = .next t ∧
    wroteRegister s t .vldLen a ∧ keepsEngine s t ∧ keepsTable s t ∧ t.st = s.st) ∧
  (∀ (a : Word) (s : State), ∃ t, exec (.vldEnd a) s = .next t ∧
    wroteRegister s t .vldEnd a ∧ keepsEngine s t ∧ keepsTable s t ∧ t.st = s.st) ∧
  (∀ (a : Word) (s : State), ∃ t, exec (.vldAddr a) s = .next t ∧
    wroteRegister s t .vldAddr a ∧ keepsEngine s t ∧ keepsTable s t ∧ t.st = s.st)

/-- `TRIGGER` (R172): the profile's trigger word, and Triggered. The model's own, for R21 and R242: the
decode gets the next number and is among those running (entry 13, DEDUCED). Nothing else changes. -/
def Obligations.TriggerStartsDecode : Prop :=
  ∀ (p : Profile) (s : State), ∃ t, exec (.trigger p) s = .next t ∧
    wroteRegister s t .trigger
      (if p = .mpeg1 then Config.triggerMpeg1 else Config.triggerMpeg2) ∧
    t.st = .triggered ∧ t.decodes = s.decodes + 1 ∧ t.running = s.running ++ [s.decodes + 1] ∧
    t.leftover = s.leftover ∧ t.pending = s.pending ∧
    t.modeNext = s.modeNext ∧ t.draws = s.draws ∧ keepsTable s t

/-- `STATUS_CLEAR` (R174): Completing, and the clear word in the trace; no register of `EReg` changes,
`REG_STATUS` included (R241). -/
def Obligations.StatusClearStoresNothing : Prop :=
  ∀ s : State, ∃ t, exec .statusClear s = .next t ∧
    t.trace = s.trace ++ [.write .status Config.statusClearValue] ∧ (∀ r, t.reg r = s.reg r) ∧
    t.st = .completing ∧ t.pc = s.pc.map (Pc.after s.fwd s.bwd) ∧ keepsTransaction s t ∧
    t.outcome = s.outcome ∧ keepsMemory s t ∧ keepsEngine s t ∧ keepsTable s t

/-- `WAIT(n)` with `n` events pending and no timeout event (R173 a): it consumes them at once and the
transaction goes on; the trace gets one marker when the wait starts. -/
def Obligations.WaitConsumesCompletion : Prop :=
  ∀ (n : Nat) (s : State), n ≤ s.pending → s.timeoutEvent = false →
    ∃ t, exec (.wait n) s = .next t ∧ t.pending = s.pending - n ∧ t.outcome = some .ok ∧
      t.st = .awaitingCompletion ∧ t.pc = s.pc.map (Pc.after s.fwd s.bwd) ∧
      t.trace = (if s.st = .awaitingCompletion then s.trace else s.trace ++ [.wait n]) ∧
      (∀ r, t.reg r = s.reg r) ∧ keepsTransaction s t ∧ keepsMemory s t ∧ keepsTable s t ∧
      t.decodes = s.decodes ∧ t.running = s.running ∧ t.leftover = s.leftover ∧ t.modeNext = s.modeNext

/-- `WAIT(n)` with too few events pending (R173, R202, R203): a timeout event ends it when
`WAIT_TIMEOUT` allows; otherwise it holds, and the next state waits at the same place. -/
def Obligations.WaitTimesOutOrHolds : Prop :=
  ∀ (n : Nat) (s : State), s.pending < n →
    ∃ t, exec (.wait n) s = .next t ∧ t.pending = s.pending ∧ t.st = .awaitingCompletion ∧
      (if s.timeoutEvent = true ∧ Config.waitTimeout = true then
        t.outcome = some .timeout ∧ t.pc = s.pc.map (Pc.after s.fwd s.bwd)
       else t.outcome = s.outcome ∧ t.pc = s.pc) ∧
      t.trace = (if s.st = .awaitingCompletion then s.trace else s.trace ++ [.wait n]) ∧
      (∀ r, t.reg r = s.reg r) ∧ keepsTransaction s t ∧ keepsMemory s t ∧ keepsTable s t ∧
      t.decodes = s.decodes ∧ t.running = s.running ∧ t.leftover = s.leftover ∧ t.modeNext = s.modeNext

/-- `WAIT(n)` with the events there and a timeout event too (R204): where the parameter allows a timeout,
the free value `Config.waitChoice` of this draw says which of the two ends it (entry 14), so that both runs
are admitted; where it does not, the completion does. -/
def Obligations.WaitWithBothEndsEitherWay : Prop :=
  ∀ (n : Nat) (s : State), n ≤ s.pending → s.timeoutEvent = true →
    ∃ t, exec (.wait n) s = .next t ∧ t.st = .awaitingCompletion ∧
      t.pc = s.pc.map (Pc.after s.fwd s.bwd) ∧
      (if Config.waitTimeout = true ∧ Config.waitChoice s.draws = true then
        t.outcome = some .timeout ∧ t.pending = s.pending
       else t.outcome = some .ok ∧ t.pending = s.pending - n) ∧
      t.draws = s.draws + (if Config.waitTimeout = true then 1 else 0) ∧
      t.trace = (if s.st = .awaitingCompletion then s.trace else s.trace ++ [.wait n]) ∧
      (∀ r, t.reg r = s.reg r) ∧ keepsTransaction s t ∧ keepsMemory s t ∧ keepsTable s t ∧
      t.decodes = s.decodes ∧ t.running = s.running ∧ t.leftover = s.leftover ∧ t.modeNext = s.modeNext

/-- `SC_QUALIFYING` (R102, R106): the scan ends with the offset three below the marker, found; step 1
follows. Nothing else changes. -/
def Obligations.QualifyingCodeEndsScan : Prop :=
  ∀ (m : Byte) (s : State) (sc : Scanner), s.scan = some sc → 3 ≤ sc.i →
    ∃ t, exec (.scQualifying m) s = .next t ∧ t.res.startOffset = sc.i - 3 ∧
      t.res.noStartCode = false ∧ t.res.code = s.res.code ∧ t.res.info = s.res.info ∧
      t.scan = none ∧ t.st = .configuring ∧ t.pc = some ⟨1, 0⟩ ∧ t.latch = s.latch ∧
      t.fwd = s.fwd ∧ t.bwd = s.bwd ∧ t.outcome = s.outcome ∧ t.resValid = s.resValid ∧
      t.sessionOpen = s.sessionOpen ∧ t.delivered = s.delivered ∧ t.host = s.host ∧ t.env = s.env ∧
      t.timeoutEvent = s.timeoutEvent ∧ t.trace = s.trace ∧ (∀ r, t.reg r = s.reg r) ∧
      keepsEngine s t ∧ keepsTable s t ∧ keepsMemory s t

/-- `SC_NONQUALIFYING` (R104): the scan resumes at the marker byte itself with the zero count 0. Nothing
else changes. -/
def Obligations.NonqualifyingCodeResumesAtMarker : Prop :=
  ∀ (m : Byte) (s : State) (sc : Scanner), s.scan = some sc →
    exec (.scNonqualifying m) s = .next { s with scan := some { i := sc.i, z := 0, hit := false } }

/-! ## Operands from the request latch -/

/-- R152 and R153: at place `i` of step 2 the DFE writes `QW(64 + i, intra_q[i])`, and at place `64 + i`
it writes `QW(i, non_intra_q[i])`, all to `REG_IQ`. -/
def Obligations.StepWritesMatrixEntries : Prop :=
  ∀ (s : State) (q : Request) (i : Fin 64), s.st = .configuring → s.latch = some q →
    (s.pc = some ⟨2, i.val⟩ →
      ∃ t, step s = .next t ∧
        wroteRegister s.envTurn t .iq (qw (BitVec.ofNat 7 (64 + i.val)) q.intraQ[i])) ∧
    (s.pc = some ⟨2, 64 + i.val⟩ →
      ∃ t, step s = .next t ∧
        wroteRegister s.envTurn t .iq (qw (BitVec.ofNat 7 i.val) q.nonIntraQ[i]))

/-- R154 to R157: step 3 writes `SZMB` and then `SZPX`, step 4 the picture header for the profile, step 5
the priming value; and the step pointer goes on by R23, past a step 6 that has no operation (R159). -/
def Obligations.StepWritesSizesHeaderPriming : Prop :=
  ∀ (s : State) (q : Request), s.st = .configuring → s.latch = some q →
    1 ≤ q.width → q.width ≤ 4080 → 1 ≤ q.height → q.height ≤ 4080 →
    (s.pc = some ⟨3, 0⟩ →
      ∃ t, step s = .next t ∧ wroteRegister s.envTurn t .mbSize (szmb q.width q.height) ∧
        t.pc = some ⟨3, 1⟩) ∧
    (s.pc = some ⟨3, 1⟩ →
      ∃ t, step s = .next t ∧ wroteRegister s.envTurn t .frameSize (szpx q.width q.height) ∧
        t.pc = some ⟨4, 0⟩) ∧
    (s.pc = some ⟨4, 0⟩ →
      ∃ t, step s = .next t ∧ wroteRegister s.envTurn t .picHdr (phw q.profile q.hdr) ∧
        t.pc = some ⟨5, 0⟩) ∧
    (s.pc = some ⟨5, 0⟩ →
      ∃ t, step s = .next t ∧ wroteRegister s.envTurn t .prime Config.primeValue ∧
        t.pc = some (if s.fwd = none ∧ s.bwd = none then ⟨7, 0⟩ else ⟨6, 0⟩))

/-- R159 to R163: step 6 writes the luma and the chroma address of the forward surface where there is
one, then those of the backward surface where there is one, and then step 7 follows. -/
def Obligations.StepWritesPresentReferences : Prop :=
  ∀ (s : State) (q : Request), s.st = .configuring → s.latch = some q →
    (∀ f, s.fwd = some f →
      (s.pc = some ⟨6, 0⟩ →
        ∃ t, step s = .next t ∧ wroteRegister s.envTurn t .fwdLuma (Config.pa f.va) ∧
          t.pc = some ⟨6, 1⟩) ∧
      (s.pc = some ⟨6, 1⟩ →
        ∃ t, step s = .next t ∧ wroteRegister s.envTurn t .fwdChroma (Config.pa (f.va + f.planeSize)) ∧
          t.pc = some (if s.bwd = none then ⟨7, 0⟩ else ⟨6, 2⟩))) ∧
    (∀ b, s.bwd = some b →
      (s.pc = some ⟨6, if s.fwd = none then 0 else 2⟩ →
        ∃ t, step s = .next t ∧ wroteRegister s.envTurn t .bwdLuma (Config.pa b.va)) ∧
      (s.pc = some ⟨6, if s.fwd = none then 1 else 3⟩ →
        ∃ t, step s = .next t ∧ wroteRegister s.envTurn t .bwdChroma (Config.pa (b.va + b.planeSize)) ∧
          t.pc = some ⟨7, 0⟩))

/-- R164 to R167: step 7 writes the output surface's two addresses to the reconstruction pair and the
same two to the rotation pair; the chroma address is translated by itself (R58). -/
def Obligations.StepWritesOutputSurface : Prop :=
  ∀ (s : State) (q : Request), s.st = .configuring → s.latch = some q →
    (s.pc = some ⟨7, 0⟩ →
      ∃ t, step s = .next t ∧ wroteRegister s.envTurn t .recLuma (Config.pa q.output.va)) ∧
    (s.pc = some ⟨7, 1⟩ →
      ∃ t, step s = .next t ∧
        wroteRegister s.envTurn t .recChroma (Config.pa (q.output.va + q.output.planeSize))) ∧
    (s.pc = some ⟨7, 2⟩ →
      ∃ t, step s = .next t ∧ wroteRegister s.envTurn t .rotLuma (Config.pa q.output.va)) ∧
    (s.pc = some ⟨7, 3⟩ →
      ∃ t, step s = .next t ∧
        wroteRegister s.envTurn t .rotChroma (Config.pa (q.output.va + q.output.planeSize)))

/-- R168 to R171: step 8 writes the start offset and the payload length in bits, the end address and the
encoded base. -/
def Obligations.StepWritesBitstreamWindow : Prop :=
  ∀ (s : State) (q : Request), s.st = .configuring → s.latch = some q →
    (s.pc = some ⟨8, 0⟩ →
      ∃ t, step s = .next t ∧ wroteRegister s.envTurn t .vldOffset (mod32 (s.res.startOffset * 8))) ∧
    (s.pc = some ⟨8, 1⟩ →
      ∃ t, step s = .next t ∧
        wroteRegister s.envTurn t .vldLen (mod32 ((q.len - s.res.startOffset) * 8))) ∧
    (s.pc = some ⟨8, 2⟩ →
      ∃ t, step s = .next t ∧
        wroteRegister s.envTurn t .vldEnd
          (mod32 ((Config.pa q.bufVa).toNat + Config.vbvCapacity - 1))) ∧
    (s.pc = some ⟨8, 3⟩ →
      ∃ t, step s = .next t ∧
        wroteRegister s.envTurn t .vldAddr (Config.vldAddrEncode (Config.pa q.bufVa)))

/-- Steps 1, 9, 11 and 12 (R151, R172, R174, R175): mode entry with the word drawn, the trigger by the
profile, the status clear, and mode exit with a word drawn afresh. -/
def Obligations.StepEntersTriggersAcknowledgesExits : Prop :=
  ∀ (s : State) (q : Request), s.st ≠ .idle → s.latch = some q →
    (s.pc = some ⟨1, 0⟩ → step s = exec (.modeEnter s.envTurn.modeNext) s.envTurn) ∧
    (s.pc = some ⟨9, 0⟩ → step s = exec (.trigger q.profile) s.envTurn) ∧
    (s.pc = some ⟨10, 0⟩ → step s = exec (.wait 1) s.envTurn) ∧
    (s.pc = some ⟨11, 0⟩ → step s = exec .statusClear s.envTurn) ∧
    (s.pc = some ⟨12, 0⟩ → step s = exec (.modeExit s.envTurn.modeNext) s.envTurn)

/-! ## The scanner -/

/-- R103 equals R102: the left-to-right pass with the zero counter returns the least offset of a
qualifying code, or 0 and not found, for every buffer. -/
def Obligations.ScannerFindsLeastQualifyingCode : Prop :=
  ∀ buf : List Byte, isScanResult buf (scanBytes buf).1 (scanBytes buf).2

/-- R108: the bounds of the scan's result. -/
def Obligations.ScanResultBounds : Prop :=
  ∀ (buf : List Byte) (off : Nat) (found : Bool), scanBytes buf = (off, found) →
    (found = true → off + 4 ≤ buf.length ∧ buf[off]? = some 0 ∧ buf[off + 1]? = some 0 ∧
      buf[off + 2]? = some 1 ∧ ∃ m, buf[off + 3]? = some m ∧ 1 ≤ m.toNat ∧ m.toNat ≤ 0xAF) ∧
    (found = false → off = 0) ∧ off ≤ buf.length

/-- One look of the scan in the machine: that one step is one look at one byte is the model's choice (entry
17: the spec gives the scan no steps). The look itself is R103's: a zero raises the counter up to 2, a `0x01` after two
zeros is a hit, any other byte resets the counter; one byte further each time, and nothing else changes. -/
def Obligations.ScanPassLooksAtOneByte : Prop :=
  ∀ (s : State) (q : Request) (sc : Scanner), s.st = .idle → s.latch = some q → s.scan = some sc →
    sc.hit = false → sc.i < q.len →
    step s = .next { s.envTurn with
      scan := some
        { i := sc.i + 1
          z := (if Memory.read s.envTurn.mem (q.bufVa + sc.i) = 0 then min (sc.z + 1) 2
                else if Memory.read s.envTurn.mem (q.bufVa + sc.i) = 1 ∧ sc.z = 2 then 2 else 0)
          hit := decide (Memory.read s.envTurn.mem (q.bufVa + sc.i) = 1 ∧ sc.z = 2) } }

/-- R105, R106, R112: at the end of the buffer, with a complete prefix before it or without, the scan
falls back to offset 0 with `no_start_code` set, and the transaction goes on at step 1. -/
def Obligations.ScanEndFallsBackToZero : Prop :=
  ∀ (s : State) (q : Request) (sc : Scanner), s.st = .idle → s.latch = some q → s.scan = some sc →
    q.len ≤ sc.i →
    ∃ t, step s = .next t ∧ t.res.startOffset = 0 ∧ t.res.noStartCode = true ∧ t.scan = none ∧
      t.st = .configuring ∧ t.pc = some ⟨1, 0⟩ ∧ t.latch = some q ∧ t.fwd = s.fwd ∧ t.bwd = s.bwd ∧
      t.trace = s.trace ∧ (∀ r, t.reg r = s.reg r)

/-! ## Requests, errors, sessions -/

/-- Phase 0 of R150 in the order of R204: the first check that applies decides. An ill-formed request is
refused (R206); a reference that does not resolve raises `INVALID_REFERENCE` with no bus event, at Idle,
with `pending` as it was (R201, R208); otherwise the request is latched and the scan begins. -/
def Obligations.AcceptanceChecksInOrder : Prop :=
  ∀ (s : State) (q : Request) (rest : List HostMove), s.st = .idle → s.latch = none →
    s.sessionOpen = true → s.host = .request q :: rest →
    match q.wf, resolveRef q.forwardRef, resolveRef q.backwardRef with
    | false, _, _ => step s = .refused .requestIllFormed
    | true, none, _ =>
      ∃ t, step s = .next t ∧ t.res = ⟨.invalidReference, false, 0, .fwd⟩ ∧ t.resValid = true ∧
        t.st = .idle ∧ t.latch = none ∧ t.trace = [] ∧ (∀ r, t.reg r = s.reg r) ∧ t.qt = s.qt ∧
        t.pending = s.envTurn.pending ∧ t.host = rest
    | true, some _, none =>
      ∃ t, step s = .next t ∧ t.res = ⟨.invalidReference, false, 0, .bwd⟩ ∧ t.resValid = true ∧
        t.st = .idle ∧ t.latch = none ∧ t.trace = [] ∧ (∀ r, t.reg r = s.reg r) ∧ t.qt = s.qt ∧
        t.pending = s.envTurn.pending ∧ t.host = rest
    | true, some f, some b =>
      ∃ t, step s = .next t ∧ t.latch = some q ∧ t.fwd = f ∧ t.bwd = b ∧ t.st = .idle ∧
        t.scan = some { i := 0, z := 0, hit := false } ∧ t.trace = [] ∧ t.res = s.res ∧
        (∀ r, t.reg r = s.reg r) ∧ t.pending = s.envTurn.pending ∧ t.host = rest

/-- R206 items 1 and 2, and the converse: a request with a size outside 1 to 4080, a length above the
capacity, or an address to translate at which `PA` is undefined is refused; any other request is well
formed, and is latched when its references resolve. -/
def Obligations.OutOfRangeRequestRefused : Prop :=
  ∀ (s : State) (q : Request) (rest : List HostMove), s.st = .idle → s.latch = none →
    s.sessionOpen = true → s.host = .request q :: rest →
    ((q.width < 1 ∨ 4080 < q.width ∨ q.height < 1 ∨ 4080 < q.height ∨ Config.vbvCapacity < q.len ∨
        ∃ a, translates q a ∧ Config.paDefined a = false) →
      step s = .refused .requestIllFormed) ∧
    ((1 ≤ q.width ∧ q.width ≤ 4080 ∧ 1 ≤ q.height ∧ q.height ≤ 4080 ∧ q.len ≤ Config.vbvCapacity ∧
        ∀ a, translates q a → Config.paDefined a = true) →
      q.wf = true ∧
      ∀ f b, resolveRef q.forwardRef = some f → resolveRef q.backwardRef = some b →
        ∃ t, step s = .next t ∧ t.latch = some q ∧ t.fwd = f ∧ t.bwd = b)

/-- R176: while `st` is not Idle a request has no move. That the host has no move of any kind in a
transaction, phase 0 included, is the model's choice (entry 18): its coming moves stay. The latch holds
its request until Idle is entered again (R24). -/
def Obligations.HostWaitsDuringTransaction : Prop :=
  ∀ s t : State, step s = .next t → (s.st ≠ .idle ∨ s.latch ≠ none) →
    t.host = s.host ∧ t.delivered = s.delivered ∧ t.sessionOpen = s.sessionOpen ∧
    (t.latch = s.latch ∨ (t.latch = none ∧ t.st = .idle))

/-- From acceptance until Idle is entered again, no step changes the bytes of the request's buffer. R252
makes this the host's duty; that neither the host nor the engine's pixel stores reach the buffer is the
model's choice (entries 18 and 19). -/
def Obligations.BufferStableDuringTransaction : Prop :=
  ∀ (s t : State) (q : Request), step s = .next t → s.latch = some q →
    bufBytes t.mem q = bufBytes s.mem q

/-- R46, R29: the host's read of `res` is refused until a transaction has ended, and then gives `res`
and changes nothing else. The model's choice: a read after the session's end is answered like one in an open
session (entry 35). -/
def Obligations.ResultReadableAfterEnd : Prop :=
  ∀ (s : State) (rest : List HostMove), s.st = .idle → s.latch = none → s.host = .readResult :: rest →
    step s = if s.resValid = true then
        .next { s.envTurn with host := rest, delivered := some s.res }
      else .refused .resultNotReady

/-- R240 and R243: a teardown writes no register and ends the session, after which no request is
accepted; a session start takes the DFE to the state of R46, in which the first read of `REG_MODE` returns
a fresh draw (a free value of entry 9). The model's choices: a request in a closed session stays where it
is with nothing changed (entry 18); at a session start memory stays, no decode is running (entry 27), and
the table is drawn afresh (entry 7); a session start in a session still open, and a teardown in one already
closed, do as the others do (entry 35). -/
def Obligations.SessionEndsAndStarts : Prop :=
  (∀ (s : State) (rest : List HostMove), s.st = .idle → s.latch = none → s.host = .teardown :: rest →
    ∃ t, step s = .next t ∧ t.sessionOpen = false ∧ (∀ r, t.reg r = s.reg r) ∧ t.trace = s.trace ∧
      t.host = rest ∧ t.st = .idle ∧ t.latch = none) ∧
  (∀ (s : State) (q : Request) (rest : List HostMove), s.st = .idle → s.latch = none →
    s.sessionOpen = false → s.host = .request q :: rest →
    step s = .next s.envTurn) ∧
  (∀ (s : State) (rest : List HostMove), s.st = .idle → s.latch = none →
    s.host = .sessionStart :: rest →
    ∃ t, step s = .next t ∧ t.sessionOpen = true ∧ t.st = .idle ∧ t.pc = none ∧ t.latch = none ∧
      t.scan = none ∧ t.pending = 0 ∧ t.resValid = false ∧ (∀ r, t.reg r = none) ∧
      t.modeNext = Config.modeDraw s.draws ∧ t.draws = s.draws + 1 ∧ t.qt = resetTable s.draws ∧
      t.decodes = 0 ∧ t.running = [] ∧ t.leftover = false ∧ t.mem = s.envTurn.mem ∧ t.host = rest)

/-! ## The engine and memory -/

/-- R21, R28, R173: what the engine's and the timer's turn does, and what it keeps.

Each move: a completion of a running decode adds one event to `pending` and ends the decode (R21 a); the
engine may set the word that the next read of `REG_MODE` returns (R21 b), and nothing else does; a store
while a decode runs, outside the latched buffer, is what the byte then reads as, and no other byte changes
(R21 c, entry 19); a timeout event is there in the step of its move, and in no other (R173 b, entry 16).

A whole turn: it takes the moves of one step from the list (entry 11). Each event it adds ends one running
decode, one for each trigger (entry 12, DEDUCED). The model's choices: with no decode running it stores
nothing (entry 19, and entry 27 after a session start; R61 has it for a decode whose event a wait
consumed), and it stores to no byte of a latched buffer (entry 19). It changes no part of the transaction,
no register the DFE wrote and no table entry. -/
def Obligations.EngineTurnKeepsTransaction : Prop :=
  (∀ (s : State) (d : Nat) (rest : List (List EnvMove)), s.env = [.completes d] :: rest → d ∈ s.running →
    s.envTurn.pending = s.pending + 1 ∧ s.envTurn.running = s.running.erase d) ∧
  (∀ (s : State) (w : Word) (rest : List (List EnvMove)), s.env = [.modeBecomes w] :: rest →
    s.envTurn.modeNext = w) ∧
  (∀ (s : State) (a : Nat) (b : Byte) (rest : List (List EnvMove)), MemInv s →
    s.env = [.storesPixel a b] :: rest → s.running ≠ [] → inBuffer s.latch a = false →
    ∀ x, Memory.read s.envTurn.mem x = if x = a then b else Memory.read s.mem x) ∧
  (∀ s : State,
    (s.envTurn.timeoutEvent = true ↔ EnvMove.timeoutFires ∈ s.env.headD []) ∧
    ((∀ w, EnvMove.modeBecomes w ∉ s.env.headD []) → s.envTurn.modeNext = s.modeNext) ∧
    ((∀ d, EnvMove.completes d ∉ s.env.headD []) → s.envTurn.pending = s.pending) ∧
    s.envTurn.env = s.env.tail ∧ s.envTurn.draws = s.draws ∧
    s.pending ≤ s.envTurn.pending ∧
    s.envTurn.pending + s.envTurn.running.length = s.pending + s.running.length ∧
    s.envTurn.running.Sublist s.running ∧ (s.running = [] → s.envTurn.mem = s.mem) ∧
    s.envTurn.st = s.st ∧ s.envTurn.pc = s.pc ∧ s.envTurn.latch = s.latch ∧
    s.envTurn.fwd = s.fwd ∧ s.envTurn.bwd = s.bwd ∧ s.envTurn.outcome = s.outcome ∧
    s.envTurn.scan = s.scan ∧ s.envTurn.res = s.res ∧ s.envTurn.resValid = s.resValid ∧
    s.envTurn.sessionOpen = s.sessionOpen ∧ s.envTurn.trace = s.trace ∧
    (∀ r, s.envTurn.reg r = s.reg r) ∧ s.envTurn.qt = s.qt ∧ s.envTurn.decodes = s.decodes ∧
    s.envTurn.leftover = s.leftover ∧ s.envTurn.host = s.host ∧ s.envTurn.delivered = s.delivered ∧
    (∀ q, s.latch = some q → bufBytes s.envTurn.mem q = bufBytes s.mem q))

/-- R51, R56: no operation writes memory: every address reads as before, whichever operation runs. -/
def Obligations.OperationsNeverWriteMemory : Prop :=
  ∀ (i : Instr) (s t : State), exec i s = .next t → ∀ a, Memory.read t.mem a = Memory.read s.mem a

/-- R207, R28: only a satisfied wait takes completion events away (or the start of a new session, which
is reset). -/
def Obligations.OnlyWaitConsumesCompletions : Prop :=
  ∀ s t : State, step s = .next t → t.pending < s.envTurn.pending →
    (∃ n, s.st ≠ .idle ∧ s.envTurn.issue = some (.wait n) ∧ n ≤ s.envTurn.pending ∧
      t.pending = s.envTurn.pending - n) ∨
    (s.st = .idle ∧ s.latch = none ∧ ∃ rest, s.host = .sessionStart :: rest)

/-- R159, R33: while no forward surface is held, no step but a session start changes the forward
registers, and the same for the backward ones. -/
def Obligations.AbsentReferenceLeavesRegisters : Prop :=
  ∀ s t : State, step s = .next t →
    ¬ (s.st = .idle ∧ s.latch = none ∧ s.host.head? = some .sessionStart) →
    (s.fwd = none → t.reg .fwdLuma = s.reg .fwdLuma ∧ t.reg .fwdChroma = s.reg .fwdChroma) ∧
    (s.bwd = none → t.reg .bwdLuma = s.reg .bwdLuma ∧ t.reg .bwdChroma = s.reg .bwdChroma)

/-! ## Invariants that every step keeps -/

/-- Every step keeps the memory in its canonical form, the model's own representation of the buffer byte
space (entries 4 and 34, DESIGN CHOICE). -/
def Obligations.StepKeepsMemoryCanonical : Prop :=
  ∀ s t : State, MemInv s → step s = .next t → MemInv t

/-- Every step keeps the sequencer's fields in agreement: R22's states in R22's order, a step pointer at
an operation of the program, an outcome exactly after the wait. -/
def Obligations.StepKeepsSequencerInvariant : Prop :=
  ∀ s t : State, SeqInv s → step s = .next t → SeqInv t

/-- Every step keeps a latched request well formed and its references resolved to the surfaces held
(R24, R158). -/
def Obligations.StepKeepsLatchInvariant : Prop :=
  ∀ s t : State, LatchInv s → step s = .next t → LatchInv t

/-- Every step keeps the scan right: in phase 0 the scanner never passes over a qualifying code, and
afterwards `res` holds R102's offset and flag for the request's buffer. And where the scan is right, no
step reads the buffer at or past its length (R14, R107): with the sequencer's fields in agreement, every
step answers a next state, but for the host's two refused moves (R206, R46). -/
def Obligations.StepKeepsScanInvariant : Prop :=
  (∀ s t : State, ScanInv s → step s = .next t → ScanInv t) ∧
  (∀ s : State, SeqInv s → ScanInv s →
    (∃ t, step s = .next t) ∨
    (s.st = .idle ∧ s.latch = none ∧
      ((step s = .refused .requestIllFormed ∧ ∃ q rest, s.host = .request q :: rest) ∨
       (step s = .refused .resultNotReady ∧ ∃ rest, s.host = .readResult :: rest))))

/-- Every step keeps the bus trace equal to the events of R150's program up to the step pointer: none is
left out, repeated or out of order (R59, R23). -/
def Obligations.StepKeepsTraceInvariant : Prop :=
  ∀ s t : State, SeqInv s → TraceInv s → step s = .next t → TraceInv t

/-- Every step keeps `EReg` at the last word that the trace of the transaction in progress or last ended
writes to each register, and `REG_STATUS` unknown (R27, R241); and, a session start apart, a register
changes only to the word of the write that the step puts at the end of the trace, so that one the step
does not write reads as before (R27, R33). -/
def Obligations.StepKeepsRegisterInvariant : Prop :=
  ∀ s t : State, RegInv s → step s = .next t →
    RegInv t ∧
    (¬ (s.st = .idle ∧ s.latch = none ∧ s.host.head? = some .sessionStart) →
      ∀ r, t.reg r = s.reg r ∨
        ∃ l v, t.trace = s.trace ++ l ++ [.write r v] ∧ t.reg r = some v)

/-! ## Whole transactions -/

/-- R22: the sequencer moves only along Idle, Configuring, Triggered, AwaitingCompletion, Completing,
Idle, or stays. -/
def Obligations.SequencerStatesInOrder : Prop :=
  ∀ s t : State, SeqInv s → step s = .next t →
    t.st = s.st ∨ (s.st = .idle ∧ t.st = .configuring) ∨ (s.st = .configuring ∧ t.st = .triggered) ∨
    (s.st = .triggered ∧ t.st = .awaitingCompletion) ∨
    (s.st = .awaitingCompletion ∧ t.st = .completing) ∨ (s.st = .completing ∧ t.st = .idle)

/-- R60 a, R250: when the trigger is written, the bus has seen every event of steps 1 to 8, and no
other. -/
def Obligations.ConfigurationPrecedesTrigger : Prop :=
  ∀ (s : State) (q : Request) (p : Profile), SeqInv s → TraceInv s → s.st ≠ .idle →
    s.latch = some q → s.envTurn.issue = some (.trigger p) →
    ∃ m1, s.trace = ((List.range 9).flatMap
      (stepOps q s.fwd s.bwd s.res.startOffset m1)).flatMap busEvents

/-- R150, R177, R179: when a transaction ends, its trace is the events of the whole program for its
request, with the surfaces held for its references (StepKeepsLatchInvariant says that these are the ones
they resolve to) and the least qualifying start code of its buffer, and the DFE is at Idle with its code
by the wait's outcome. -/
def Obligations.EndedTransactionIsTheProgram : Prop :=
  ∀ (s t : State) (q : Request), SeqInv s → ScanInv s → TraceInv s →
    s.st = .completing → s.latch = some q → step s = .next t →
    t.st = .idle ∧ t.latch = none ∧ t.resValid = true ∧
    t.res.code = (if s.outcome = some .timeout then .hwTimeout else .ok) ∧
    isScanResult (bufBytes s.mem q) t.res.startOffset (!t.res.noStartCode) ∧
    ∃ m1 m12, t.trace = (program q s.fwd s.bwd t.res.startOffset m1 m12).flatMap busEvents

/-- R178: two transactions that end with the same request, resolved surfaces, scan result and the same
two draws have identical traces. -/
def Obligations.TraceDeterminedByInputs : Prop :=
  ∀ (s s' t t' : State), SeqInv s → SeqInv s' → TraceInv s → TraceInv s' →
    s.st = .completing → s'.st = .completing → s.latch = s'.latch → s.fwd = s'.fwd → s.bwd = s'.bwd →
    s.res.startOffset = s'.res.startOffset → s.trace.head? = s'.trace.head? →
    s.envTurn.modeNext = s'.envTurn.modeNext → step s = .next t → step s' = .next t' →
    t.trace = t'.trace

/-- R107, R23, R179: the scan of an accepted request ends, after at most two steps for each byte and one
more, whatever the engine and the timer do, with R102's result, and step 1 follows; and with a completion
event pending and no move of the engine or the timer left, a transaction that stands before step 1 ends
`OK` after as many steps as its program has operations, and has consumed one event. The numbers of steps
rest on the model's choices: one step for each look of the scan (entry 17), and one for a
read-modify-write (entry 32). -/
def Obligations.PendingCompletionEndsTransaction : Prop :=
  (∀ (s : State) (q : Request), SeqInv s → ScanInv s → s.st = .idle → s.latch = some q →
    ∃ n t, n ≤ 2 * q.len + 1 ∧ Sys2Proof.core.run n s = .next t ∧ State.st t = .configuring ∧
      State.pc t = some ⟨1, 0⟩ ∧ State.latch t = some q ∧ State.fwd t = s.fwd ∧ State.bwd t = s.bwd ∧
      isScanResult (bufBytes s.mem q) (State.res t).startOffset (!(State.res t).noStartCode) ∧
      (s.env = [] → State.env t = [] ∧ State.pending t = s.pending)) ∧
  (∀ s : State, SeqInv s → s.st = .configuring → s.pc = some ⟨1, 0⟩ → s.env = [] → 1 ≤ s.pending →
    ∃ t, Sys2Proof.core.run
        (145 + (if s.fwd.isSome then 2 else 0) + (if s.bwd.isSome then 2 else 0)) s = .next t ∧
      State.st t = .idle ∧ State.latch t = none ∧ (State.res t).code = .ok ∧
      State.pending t = s.pending - 1)

/-- R203: with no completion event pending or among the engine's coming moves, and with no timeout (the
parameter allows none, or none is among the coming moves), a DFE that stands in its wait holds for ever:
after any number of steps, whatever other moves the engine makes, it waits at the same place, with the
same trace and request, and has stopped with neither a fault nor a refusal. -/
def Obligations.WaitWithoutEventsHoldsForever : Prop :=
  ∀ s : State, SeqInv s → s.st = .awaitingCompletion → s.pc = some ⟨10, 0⟩ → s.pending = 0 →
    (∀ ms ∈ s.env, ∀ d, EnvMove.completes d ∉ ms) →
    (Config.waitTimeout = false ∨ ∀ ms ∈ s.env, EnvMove.timeoutFires ∉ ms) →
    ∀ n, ∃ t, Sys2Proof.core.run n s = .next t ∧ State.st t = .awaitingCompletion ∧
      State.pc t = some ⟨10, 0⟩ ∧ State.trace t = s.trace ∧ State.latch t = s.latch ∧
      State.pending t = 0 ∧ State.host t = s.host
end

