-- ==== Sys2Proof/Laws/Decode.lean ====
section
/-! SUPPORT. The register offsets (spec/20_memory.md R52) and the first half of decoding an event: the
offset names the register (spec/30_encoding.md R85). -/

namespace Sys2Proof

theorem Reg.index_injective : Function.Injective Reg.index := by
  intro a b h
  cases a <;> cases b <;> first | rfl | exact absurd h (by decide)

theorem Reg.mem_all (r : Reg) : r ∈ Reg.all := by cases r <;> decide

/-- The offset as a natural: four times a place below `2^30`. -/
theorem Config.offset_toNat (r : Reg) :
    (Config.offset r).toNat = 4 * (Config.offsetPerm (Fin.castLE (by decide) r.index)).val := by
  have := (Config.offsetPerm (Fin.castLE (by decide) r.index)).isLt
  simp only [Config.offset, mod32, BitVec.toNat_ofNat]
  omega

theorem Config.offset_injective : Function.Injective Config.offset := by
  intro a b h
  have h' := congrArg BitVec.toNat h
  rw [Config.offset_toNat, Config.offset_toNat] at h'
  have h2 := Config.offsetPerm.injective (Fin.ext (Nat.eq_of_mul_eq_mul_left (by decide) h'))
  exact Reg.index_injective (Fin.castLE_injective _ h2)

/-- The register at a register's offset is that register. -/
@[simp] theorem regAt_offset (r : Reg) : regAt (Config.offset r) = some r := by
  unfold regAt
  have h : ∀ l : List Reg, r ∈ l →
      l.find? (fun r' => decide (Config.offset r' = Config.offset r)) = some r := by
    intro l
    induction l with
    | nil => intro h; cases h
    | cons x xs ih =>
      intro h
      by_cases hx : x = r
      · subst hx; simp
      · have hne : Config.offset x ≠ Config.offset r := fun he => hx (Config.offset_injective he)
        simp only [List.find?_cons, hne, decide_false]
        exact ih ((List.mem_cons.mp h).resolve_left (fun he => hx he.symm))
  exact h _ (Reg.mem_all r)

/-- An offset at which a register is found is that register's. -/
theorem offset_of_regAt {off : Word} {r : Reg} (h : regAt off = some r) : Config.offset r = off := by
  have := List.find?_some h
  simpa using this

/-- A write event at a register's offset decodes as a write to that register. -/
@[simp] theorem decode_write_offset (r : Reg) (w : Word) :
    decode (.write (Config.offset r) w) = decodeWrite r w := by
  simp [decode]

/-- A read-modify-write event at `REG_MODE` decodes as one of the mode operations. -/
@[simp] theorem decode_rmw_mode (last : Bool) (r w : Word) :
    decode (.rmw last (Config.offset .mode) r w) = decodeMode last r w := by
  simp [decode]

/-- The two trigger words differ (D6). -/
theorem Config.trigger_ne : Config.triggerMpeg2 ≠ Config.triggerMpeg1 := by
  intro h
  have h0 := congrArg BitVec.toNat h
  have := Config.triggerGap.isLt
  have := Config.triggerMpeg1.isLt
  simp only [Config.triggerMpeg2, mod32, BitVec.toNat_add, BitVec.toNat_ofNat] at h0
  omega

/-- The capacity's constraints (00_scope.md R9, D10). -/
theorem Config.vbvCapacity_bounds : 1 ≤ Config.vbvCapacity ∧ Config.vbvCapacity * 8 < 2 ^ 32 := by
  have := Config.vbvCapacityPred.isLt
  unfold Config.vbvCapacity
  omega

end Sys2Proof
end

