-- ==== Sys2Proof/Laws/Memory.lean ====
section
/-! SUPPORT. The laws of memory: a read after a write, and that a write keeps the canonical form. -/

namespace Sys2Proof.Machine

/-- The canonical form above an address holds above every lower one. -/
theorem Memory.wfAbove_mono {m : List Host.Cell} {lo lo' : Nat} (h : Memory.wfAbove lo m = true)
    (hle : lo' ≤ lo) : Memory.wfAbove lo' m = true := by
  cases m with
  | nil => rfl
  | cons c rest =>
    obtain ⟨a, b⟩ := c
    simp only [Memory.wfAbove, Bool.and_eq_true, decide_eq_true_eq] at h ⊢
    exact ⟨⟨by omega, h.1.2⟩, h.2⟩

/-- No entry lies below the bound: an address below it reads as unlisted. -/
theorem Memory.read_below {m : List Host.Cell} {lo x : Nat} (h : Memory.wfAbove lo m = true)
    (hx : x < lo) : Memory.read m x = Memory.unlisted := by
  induction m generalizing lo with
  | nil => rfl
  | cons c rest ih =>
    obtain ⟨a, b⟩ := c
    simp only [Memory.wfAbove, Bool.and_eq_true, decide_eq_true_eq] at h
    rw [Memory.read, if_neg (by omega)]
    exact ih h.2 (by omega)

theorem Memory.wfAbove_erase {m : List Host.Cell} {lo : Nat} (h : Memory.wfAbove lo m = true) (x : Nat) :
    Memory.wfAbove lo (Memory.erase m x) = true := by
  induction m generalizing lo with
  | nil => rfl
  | cons c rest ih =>
    obtain ⟨a, b⟩ := c
    simp only [Memory.wfAbove, Bool.and_eq_true, decide_eq_true_eq] at h
    unfold Memory.erase
    split
    · exact Memory.wfAbove_mono h.2 (by omega)
    · simp only [Memory.wfAbove, Bool.and_eq_true, decide_eq_true_eq]
      exact ⟨h.1, ih h.2⟩

theorem Memory.wfAbove_insert {m : List Host.Cell} {lo x : Nat} {v : Byte}
    (h : Memory.wfAbove lo m = true) (hx : lo ≤ x) (hv : v ≠ Memory.unlisted) :
    Memory.wfAbove lo (Memory.insert m x v) = true := by
  induction m generalizing lo with
  | nil => simp [Memory.insert, Memory.wfAbove, hx, hv]
  | cons c rest ih =>
    obtain ⟨a, b⟩ := c
    simp only [Memory.wfAbove, Bool.and_eq_true, decide_eq_true_eq] at h
    unfold Memory.insert
    split
    · simp only [Memory.wfAbove, Bool.and_eq_true, decide_eq_true_eq]
      exact ⟨⟨hx, hv⟩, ⟨by omega, h.1.2⟩, h.2⟩
    · split
      · simp only [Memory.wfAbove, Bool.and_eq_true, decide_eq_true_eq]
        exact ⟨⟨hx, hv⟩, Memory.wfAbove_mono h.2 (by omega)⟩
      · simp only [Memory.wfAbove, Bool.and_eq_true, decide_eq_true_eq]
        exact ⟨h.1, ih h.2 (by omega)⟩

/-- A write keeps the canonical form. -/
theorem Memory.wf_write {m : List Host.Cell} (h : Memory.wf m = true) (x : Nat) (v : Byte) :
    Memory.wf (Memory.write m x v) = true := by
  unfold Memory.write
  split
  · exact Memory.wfAbove_erase h x
  · exact Memory.wfAbove_insert h (Nat.zero_le x) ‹_›

theorem Memory.read_insert (m : List Host.Cell) (x y : Nat) (v : Byte) :
    Memory.read (Memory.insert m x v) y = if y = x then v else Memory.read m y := by
  induction m with
  | nil => simp [Memory.insert, Memory.read]
  | cons c rest ih =>
    obtain ⟨a, b⟩ := c
    unfold Memory.insert
    split
    · simp [Memory.read]
    · split
      · subst ‹x = a›
        simp only [Memory.read]
        split <;> rfl
      · simp only [Memory.read, ih]
        by_cases h1 : y = a <;> by_cases h2 : y = x <;> simp_all

theorem Memory.read_erase {m : List Host.Cell} {lo : Nat} (h : Memory.wfAbove lo m = true) (x y : Nat) :
    Memory.read (Memory.erase m x) y = if y = x then Memory.unlisted else Memory.read m y := by
  induction m generalizing lo with
  | nil => simp [Memory.erase, Memory.read]
  | cons c rest ih =>
    obtain ⟨a, b⟩ := c
    simp only [Memory.wfAbove, Bool.and_eq_true, decide_eq_true_eq] at h
    unfold Memory.erase
    split
    · subst ‹x = a›
      by_cases hy : y = x
      · simp [hy, Memory.read_below h.2 (Nat.lt_succ_self x)]
      · simp [hy, Memory.read]
    · simp only [Memory.read, ih h.2]
      by_cases h1 : y = a <;> by_cases h2 : y = x <;> simp_all

/-- A read after a write: the value written at its address, the old value at every other. -/
theorem Memory.read_write {m : List Host.Cell} (h : Memory.wf m = true) (x y : Nat) (v : Byte) :
    Memory.read (Memory.write m x v) y = if y = x then v else Memory.read m y := by
  unfold Memory.write
  split
  · rw [Memory.read_erase h, ‹v = _›]
  · exact Memory.read_insert m x y v

/-- An address the write does not name reads as before, whether or not the memory is canonical. -/
theorem Memory.read_write_of_ne (m : List Host.Cell) {x y : Nat} (h : y ≠ x) (v : Byte) :
    Memory.read (Memory.write m x v) y = Memory.read m y := by
  unfold Memory.write
  split
  · induction m with
    | nil => rfl
    | cons c rest ih =>
      obtain ⟨a, b⟩ := c
      unfold Memory.erase
      split
      · simp only [Memory.read]
        rw [if_neg (by omega)]
      · simp only [Memory.read, ih]
  · rw [Memory.read_insert, if_neg h]

@[simp] theorem bufBytes_length (m : List Host.Cell) (q : Request) : (bufBytes m q).length = q.len := by
  simp [bufBytes]

/-- The bytes of the buffer are the bytes a guarded read gives. -/
theorem bufBytes_getElem? (m : List Host.Cell) (q : Request) (i : Nat) :
    (bufBytes m q)[i]? = if i < q.len then some (Memory.read m (q.bufVa + i)) else none := by
  by_cases h : i < q.len <;> simp [bufBytes, h]

/-- A store outside the buffer leaves its bytes. -/
theorem bufBytes_write {m : List Host.Cell} {q : Request} {a : Nat} (h : inBuffer (some q) a = false)
    (v : Byte) : bufBytes (Memory.write m a v) q = bufBytes m q := by
  unfold bufBytes
  apply List.map_congr_left
  intro i hi
  apply Memory.read_write_of_ne
  rintro rfl
  simp [inBuffer] at h
  have := List.mem_range.mp hi
  omega

end Sys2Proof.Machine
end

