-- ==== Sys2Proof/Laws/State.lean ====
section
/-! SUPPORT. One lemma for each field of each named update of the state, so that no later proof unfolds a
record update; and the same for the updates that branch. -/

namespace Sys2Proof.Machine

/-! ### `RegWrite` -/

@[simp] theorem regWrite_st (s : State) (r : Reg) (v : Word) :
    (s.regWrite r v).st = s.st := rfl
@[simp] theorem regWrite_pc (s : State) (r : Reg) (v : Word) :
    (s.regWrite r v).pc = s.pc := rfl
@[simp] theorem regWrite_latch (s : State) (r : Reg) (v : Word) :
    (s.regWrite r v).latch = s.latch := rfl
@[simp] theorem regWrite_fwd (s : State) (r : Reg) (v : Word) :
    (s.regWrite r v).fwd = s.fwd := rfl
@[simp] theorem regWrite_bwd (s : State) (r : Reg) (v : Word) :
    (s.regWrite r v).bwd = s.bwd := rfl
@[simp] theorem regWrite_outcome (s : State) (r : Reg) (v : Word) :
    (s.regWrite r v).outcome = s.outcome := rfl
@[simp] theorem regWrite_scan (s : State) (r : Reg) (v : Word) :
    (s.regWrite r v).scan = s.scan := rfl
@[simp] theorem regWrite_res (s : State) (r : Reg) (v : Word) :
    (s.regWrite r v).res = s.res := rfl
@[simp] theorem regWrite_resValid (s : State) (r : Reg) (v : Word) :
    (s.regWrite r v).resValid = s.resValid := rfl
@[simp] theorem regWrite_sessionOpen (s : State) (r : Reg) (v : Word) :
    (s.regWrite r v).sessionOpen = s.sessionOpen := rfl
@[simp] theorem regWrite_trace (s : State) (r : Reg) (v : Word) :
    (s.regWrite r v).trace = s.trace ++ [.write r v] := rfl
@[simp] theorem regWrite_ereg (s : State) (r : Reg) (v : Word) :
    (s.regWrite r v).ereg = storeReg s.ereg r v := rfl
@[simp] theorem regWrite_qt (s : State) (r : Reg) (v : Word) :
    (s.regWrite r v).qt = storeQt s.qt r v := rfl
@[simp] theorem regWrite_pending (s : State) (r : Reg) (v : Word) :
    (s.regWrite r v).pending = s.pending := rfl
@[simp] theorem regWrite_mem (s : State) (r : Reg) (v : Word) :
    (s.regWrite r v).mem = s.mem := rfl
@[simp] theorem regWrite_modeNext (s : State) (r : Reg) (v : Word) :
    (s.regWrite r v).modeNext = s.modeNext := rfl
@[simp] theorem regWrite_draws (s : State) (r : Reg) (v : Word) :
    (s.regWrite r v).draws = s.draws := rfl
@[simp] theorem regWrite_decodes (s : State) (r : Reg) (v : Word) :
    (s.regWrite r v).decodes = s.decodes + (if r = .trigger then 1 else 0) := rfl
@[simp] theorem regWrite_running (s : State) (r : Reg) (v : Word) :
    (s.regWrite r v).running = s.running ++ (if r = .trigger then [s.decodes + 1] else []) := rfl
@[simp] theorem regWrite_leftover (s : State) (r : Reg) (v : Word) :
    (s.regWrite r v).leftover = s.leftover := rfl
@[simp] theorem regWrite_timeoutEvent (s : State) (r : Reg) (v : Word) :
    (s.regWrite r v).timeoutEvent = s.timeoutEvent := rfl
@[simp] theorem regWrite_host (s : State) (r : Reg) (v : Word) :
    (s.regWrite r v).host = s.host := rfl
@[simp] theorem regWrite_env (s : State) (r : Reg) (v : Word) :
    (s.regWrite r v).env = s.env := rfl
@[simp] theorem regWrite_delivered (s : State) (r : Reg) (v : Word) :
    (s.regWrite r v).delivered = s.delivered := rfl

/-! ### `RegRead(REG_MODE)` -/

@[simp] theorem modeRead_st (s : State) (v : Word) :
    (s.modeRead v).st = s.st := rfl
@[simp] theorem modeRead_pc (s : State) (v : Word) :
    (s.modeRead v).pc = s.pc := rfl
@[simp] theorem modeRead_latch (s : State) (v : Word) :
    (s.modeRead v).latch = s.latch := rfl
@[simp] theorem modeRead_fwd (s : State) (v : Word) :
    (s.modeRead v).fwd = s.fwd := rfl
@[simp] theorem modeRead_bwd (s : State) (v : Word) :
    (s.modeRead v).bwd = s.bwd := rfl
@[simp] theorem modeRead_outcome (s : State) (v : Word) :
    (s.modeRead v).outcome = s.outcome := rfl
@[simp] theorem modeRead_scan (s : State) (v : Word) :
    (s.modeRead v).scan = s.scan := rfl
@[simp] theorem modeRead_res (s : State) (v : Word) :
    (s.modeRead v).res = s.res := rfl
@[simp] theorem modeRead_resValid (s : State) (v : Word) :
    (s.modeRead v).resValid = s.resValid := rfl
@[simp] theorem modeRead_sessionOpen (s : State) (v : Word) :
    (s.modeRead v).sessionOpen = s.sessionOpen := rfl
@[simp] theorem modeRead_trace (s : State) (v : Word) :
    (s.modeRead v).trace = s.trace ++ [.read .mode v] := rfl
@[simp] theorem modeRead_ereg (s : State) (v : Word) :
    (s.modeRead v).ereg = s.ereg := rfl
@[simp] theorem modeRead_qt (s : State) (v : Word) :
    (s.modeRead v).qt = s.qt := rfl
@[simp] theorem modeRead_pending (s : State) (v : Word) :
    (s.modeRead v).pending = s.pending := rfl
@[simp] theorem modeRead_mem (s : State) (v : Word) :
    (s.modeRead v).mem = s.mem := rfl
@[simp] theorem modeRead_modeNext (s : State) (v : Word) :
    (s.modeRead v).modeNext = Config.modeDraw s.draws := rfl
@[simp] theorem modeRead_draws (s : State) (v : Word) :
    (s.modeRead v).draws = s.draws + 1 := rfl
@[simp] theorem modeRead_decodes (s : State) (v : Word) :
    (s.modeRead v).decodes = s.decodes := rfl
@[simp] theorem modeRead_running (s : State) (v : Word) :
    (s.modeRead v).running = s.running := rfl
@[simp] theorem modeRead_leftover (s : State) (v : Word) :
    (s.modeRead v).leftover = s.leftover := rfl
@[simp] theorem modeRead_timeoutEvent (s : State) (v : Word) :
    (s.modeRead v).timeoutEvent = s.timeoutEvent := rfl
@[simp] theorem modeRead_host (s : State) (v : Word) :
    (s.modeRead v).host = s.host := rfl
@[simp] theorem modeRead_env (s : State) (v : Word) :
    (s.modeRead v).env = s.env := rfl
@[simp] theorem modeRead_delivered (s : State) (v : Word) :
    (s.modeRead v).delivered = s.delivered := rfl

/-! ### the step pointer's advance -/

@[simp] theorem advance_st (s : State) :
    (s.advance).st = s.st := rfl
@[simp] theorem advance_pc (s : State) :
    (s.advance).pc = s.pc.map (Pc.after s.fwd s.bwd) := rfl
@[simp] theorem advance_latch (s : State) :
    (s.advance).latch = s.latch := rfl
@[simp] theorem advance_fwd (s : State) :
    (s.advance).fwd = s.fwd := rfl
@[simp] theorem advance_bwd (s : State) :
    (s.advance).bwd = s.bwd := rfl
@[simp] theorem advance_outcome (s : State) :
    (s.advance).outcome = s.outcome := rfl
@[simp] theorem advance_scan (s : State) :
    (s.advance).scan = s.scan := rfl
@[simp] theorem advance_res (s : State) :
    (s.advance).res = s.res := rfl
@[simp] theorem advance_resValid (s : State) :
    (s.advance).resValid = s.resValid := rfl
@[simp] theorem advance_sessionOpen (s : State) :
    (s.advance).sessionOpen = s.sessionOpen := rfl
@[simp] theorem advance_trace (s : State) :
    (s.advance).trace = s.trace := rfl
@[simp] theorem advance_ereg (s : State) :
    (s.advance).ereg = s.ereg := rfl
@[simp] theorem advance_qt (s : State) :
    (s.advance).qt = s.qt := rfl
@[simp] theorem advance_pending (s : State) :
    (s.advance).pending = s.pending := rfl
@[simp] theorem advance_mem (s : State) :
    (s.advance).mem = s.mem := rfl
@[simp] theorem advance_modeNext (s : State) :
    (s.advance).modeNext = s.modeNext := rfl
@[simp] theorem advance_draws (s : State) :
    (s.advance).draws = s.draws := rfl
@[simp] theorem advance_decodes (s : State) :
    (s.advance).decodes = s.decodes := rfl
@[simp] theorem advance_running (s : State) :
    (s.advance).running = s.running := rfl
@[simp] theorem advance_leftover (s : State) :
    (s.advance).leftover = s.leftover := rfl
@[simp] theorem advance_timeoutEvent (s : State) :
    (s.advance).timeoutEvent = s.timeoutEvent := rfl
@[simp] theorem advance_host (s : State) :
    (s.advance).host = s.host := rfl
@[simp] theorem advance_env (s : State) :
    (s.advance).env = s.env := rfl
@[simp] theorem advance_delivered (s : State) :
    (s.advance).delivered = s.delivered := rfl

/-! ### an operation that is one write -/

@[simp] theorem busWrite_st (s : State) (r : Reg) (v : Word) :
    (s.busWrite r v).st = s.st := rfl
@[simp] theorem busWrite_pc (s : State) (r : Reg) (v : Word) :
    (s.busWrite r v).pc = s.pc.map (Pc.after s.fwd s.bwd) := rfl
@[simp] theorem busWrite_latch (s : State) (r : Reg) (v : Word) :
    (s.busWrite r v).latch = s.latch := rfl
@[simp] theorem busWrite_fwd (s : State) (r : Reg) (v : Word) :
    (s.busWrite r v).fwd = s.fwd := rfl
@[simp] theorem busWrite_bwd (s : State) (r : Reg) (v : Word) :
    (s.busWrite r v).bwd = s.bwd := rfl
@[simp] theorem busWrite_outcome (s : State) (r : Reg) (v : Word) :
    (s.busWrite r v).outcome = s.outcome := rfl
@[simp] theorem busWrite_scan (s : State) (r : Reg) (v : Word) :
    (s.busWrite r v).scan = s.scan := rfl
@[simp] theorem busWrite_res (s : State) (r : Reg) (v : Word) :
    (s.busWrite r v).res = s.res := rfl
@[simp] theorem busWrite_resValid (s : State) (r : Reg) (v : Word) :
    (s.busWrite r v).resValid = s.resValid := rfl
@[simp] theorem busWrite_sessionOpen (s : State) (r : Reg) (v : Word) :
    (s.busWrite r v).sessionOpen = s.sessionOpen := rfl
@[simp] theorem busWrite_trace (s : State) (r : Reg) (v : Word) :
    (s.busWrite r v).trace = s.trace ++ [.write r v] := rfl
@[simp] theorem busWrite_ereg (s : State) (r : Reg) (v : Word) :
    (s.busWrite r v).ereg = storeReg s.ereg r v := rfl
@[simp] theorem busWrite_qt (s : State) (r : Reg) (v : Word) :
    (s.busWrite r v).qt = storeQt s.qt r v := rfl
@[simp] theorem busWrite_pending (s : State) (r : Reg) (v : Word) :
    (s.busWrite r v).pending = s.pending := rfl
@[simp] theorem busWrite_mem (s : State) (r : Reg) (v : Word) :
    (s.busWrite r v).mem = s.mem := rfl
@[simp] theorem busWrite_modeNext (s : State) (r : Reg) (v : Word) :
    (s.busWrite r v).modeNext = s.modeNext := rfl
@[simp] theorem busWrite_draws (s : State) (r : Reg) (v : Word) :
    (s.busWrite r v).draws = s.draws := rfl
@[simp] theorem busWrite_decodes (s : State) (r : Reg) (v : Word) :
    (s.busWrite r v).decodes = s.decodes + (if r = .trigger then 1 else 0) := rfl
@[simp] theorem busWrite_running (s : State) (r : Reg) (v : Word) :
    (s.busWrite r v).running = s.running ++ (if r = .trigger then [s.decodes + 1] else []) := rfl
@[simp] theorem busWrite_leftover (s : State) (r : Reg) (v : Word) :
    (s.busWrite r v).leftover = s.leftover := rfl
@[simp] theorem busWrite_timeoutEvent (s : State) (r : Reg) (v : Word) :
    (s.busWrite r v).timeoutEvent = s.timeoutEvent := rfl
@[simp] theorem busWrite_host (s : State) (r : Reg) (v : Word) :
    (s.busWrite r v).host = s.host := rfl
@[simp] theorem busWrite_env (s : State) (r : Reg) (v : Word) :
    (s.busWrite r v).env = s.env := rfl
@[simp] theorem busWrite_delivered (s : State) (r : Reg) (v : Word) :
    (s.busWrite r v).delivered = s.delivered := rfl

/-! ### a read-modify-write -/

@[simp] theorem modeRmw_st (s : State) (v : Word) (m : BitVec 4) :
    (s.modeRmw v m).st = s.st := rfl
@[simp] theorem modeRmw_pc (s : State) (v : Word) (m : BitVec 4) :
    (s.modeRmw v m).pc = s.pc := rfl
@[simp] theorem modeRmw_latch (s : State) (v : Word) (m : BitVec 4) :
    (s.modeRmw v m).latch = s.latch := rfl
@[simp] theorem modeRmw_fwd (s : State) (v : Word) (m : BitVec 4) :
    (s.modeRmw v m).fwd = s.fwd := rfl
@[simp] theorem modeRmw_bwd (s : State) (v : Word) (m : BitVec 4) :
    (s.modeRmw v m).bwd = s.bwd := rfl
@[simp] theorem modeRmw_outcome (s : State) (v : Word) (m : BitVec 4) :
    (s.modeRmw v m).outcome = s.outcome := rfl
@[simp] theorem modeRmw_scan (s : State) (v : Word) (m : BitVec 4) :
    (s.modeRmw v m).scan = s.scan := rfl
@[simp] theorem modeRmw_res (s : State) (v : Word) (m : BitVec 4) :
    (s.modeRmw v m).res = s.res := rfl
@[simp] theorem modeRmw_resValid (s : State) (v : Word) (m : BitVec 4) :
    (s.modeRmw v m).resValid = s.resValid := rfl
@[simp] theorem modeRmw_sessionOpen (s : State) (v : Word) (m : BitVec 4) :
    (s.modeRmw v m).sessionOpen = s.sessionOpen := rfl
@[simp] theorem modeRmw_trace (s : State) (v : Word) (m : BitVec 4) :
    (s.modeRmw v m).trace = s.trace ++ [.read .mode v] ++ [.write .mode (modeWord v m)] := rfl
@[simp] theorem modeRmw_ereg (s : State) (v : Word) (m : BitVec 4) :
    (s.modeRmw v m).ereg = storeReg s.ereg .mode (modeWord v m) := rfl
@[simp] theorem modeRmw_qt (s : State) (v : Word) (m : BitVec 4) :
    (s.modeRmw v m).qt = s.qt := rfl
@[simp] theorem modeRmw_pending (s : State) (v : Word) (m : BitVec 4) :
    (s.modeRmw v m).pending = s.pending := rfl
@[simp] theorem modeRmw_mem (s : State) (v : Word) (m : BitVec 4) :
    (s.modeRmw v m).mem = s.mem := rfl
@[simp] theorem modeRmw_modeNext (s : State) (v : Word) (m : BitVec 4) :
    (s.modeRmw v m).modeNext = Config.modeDraw s.draws := rfl
@[simp] theorem modeRmw_draws (s : State) (v : Word) (m : BitVec 4) :
    (s.modeRmw v m).draws = s.draws + 1 := rfl
@[simp] theorem modeRmw_decodes (s : State) (v : Word) (m : BitVec 4) :
    (s.modeRmw v m).decodes = s.decodes := by
  simp [State.modeRmw]
@[simp] theorem modeRmw_running (s : State) (v : Word) (m : BitVec 4) :
    (s.modeRmw v m).running = s.running := by
  simp [State.modeRmw]
@[simp] theorem modeRmw_leftover (s : State) (v : Word) (m : BitVec 4) :
    (s.modeRmw v m).leftover = s.leftover := rfl
@[simp] theorem modeRmw_timeoutEvent (s : State) (v : Word) (m : BitVec 4) :
    (s.modeRmw v m).timeoutEvent = s.timeoutEvent := rfl
@[simp] theorem modeRmw_host (s : State) (v : Word) (m : BitVec 4) :
    (s.modeRmw v m).host = s.host := rfl
@[simp] theorem modeRmw_env (s : State) (v : Word) (m : BitVec 4) :
    (s.modeRmw v m).env = s.env := rfl
@[simp] theorem modeRmw_delivered (s : State) (v : Word) (m : BitVec 4) :
    (s.modeRmw v m).delivered = s.delivered := rfl

/-! ### the end of a scan -/

@[simp] theorem finishScan_st (s : State) (off : Nat) (found : Bool) :
    (s.finishScan off found).st = .configuring := rfl
@[simp] theorem finishScan_pc (s : State) (off : Nat) (found : Bool) :
    (s.finishScan off found).pc = some ⟨1, 0⟩ := rfl
@[simp] theorem finishScan_latch (s : State) (off : Nat) (found : Bool) :
    (s.finishScan off found).latch = s.latch := rfl
@[simp] theorem finishScan_fwd (s : State) (off : Nat) (found : Bool) :
    (s.finishScan off found).fwd = s.fwd := rfl
@[simp] theorem finishScan_bwd (s : State) (off : Nat) (found : Bool) :
    (s.finishScan off found).bwd = s.bwd := rfl
@[simp] theorem finishScan_outcome (s : State) (off : Nat) (found : Bool) :
    (s.finishScan off found).outcome = s.outcome := rfl
@[simp] theorem finishScan_scan (s : State) (off : Nat) (found : Bool) :
    (s.finishScan off found).scan = none := rfl
@[simp] theorem finishScan_res (s : State) (off : Nat) (found : Bool) :
    (s.finishScan off found).res = s.res.withScan off found := rfl
@[simp] theorem finishScan_resValid (s : State) (off : Nat) (found : Bool) :
    (s.finishScan off found).resValid = s.resValid := rfl
@[simp] theorem finishScan_sessionOpen (s : State) (off : Nat) (found : Bool) :
    (s.finishScan off found).sessionOpen = s.sessionOpen := rfl
@[simp] theorem finishScan_trace (s : State) (off : Nat) (found : Bool) :
    (s.finishScan off found).trace = s.trace := rfl
@[simp] theorem finishScan_ereg (s : State) (off : Nat) (found : Bool) :
    (s.finishScan off found).ereg = s.ereg := rfl
@[simp] theorem finishScan_qt (s : State) (off : Nat) (found : Bool) :
    (s.finishScan off found).qt = s.qt := rfl
@[simp] theorem finishScan_pending (s : State) (off : Nat) (found : Bool) :
    (s.finishScan off found).pending = s.pending := rfl
@[simp] theorem finishScan_mem (s : State) (off : Nat) (found : Bool) :
    (s.finishScan off found).mem = s.mem := rfl
@[simp] theorem finishScan_modeNext (s : State) (off : Nat) (found : Bool) :
    (s.finishScan off found).modeNext = s.modeNext := rfl
@[simp] theorem finishScan_draws (s : State) (off : Nat) (found : Bool) :
    (s.finishScan off found).draws = s.draws := rfl
@[simp] theorem finishScan_decodes (s : State) (off : Nat) (found : Bool) :
    (s.finishScan off found).decodes = s.decodes := rfl
@[simp] theorem finishScan_running (s : State) (off : Nat) (found : Bool) :
    (s.finishScan off found).running = s.running := rfl
@[simp] theorem finishScan_leftover (s : State) (off : Nat) (found : Bool) :
    (s.finishScan off found).leftover = s.leftover := rfl
@[simp] theorem finishScan_timeoutEvent (s : State) (off : Nat) (found : Bool) :
    (s.finishScan off found).timeoutEvent = s.timeoutEvent := rfl
@[simp] theorem finishScan_host (s : State) (off : Nat) (found : Bool) :
    (s.finishScan off found).host = s.host := rfl
@[simp] theorem finishScan_env (s : State) (off : Nat) (found : Bool) :
    (s.finishScan off found).env = s.env := rfl
@[simp] theorem finishScan_delivered (s : State) (off : Nat) (found : Bool) :
    (s.finishScan off found).delivered = s.delivered := rfl

/-! ### entry into `INVALID_REFERENCE` -/

@[simp] theorem raiseInvalidReference_st (s : State) (w : RefInfo) :
    (s.raiseInvalidReference w).st = s.st := rfl
@[simp] theorem raiseInvalidReference_pc (s : State) (w : RefInfo) :
    (s.raiseInvalidReference w).pc = s.pc := rfl
@[simp] theorem raiseInvalidReference_latch (s : State) (w : RefInfo) :
    (s.raiseInvalidReference w).latch = s.latch := rfl
@[simp] theorem raiseInvalidReference_fwd (s : State) (w : RefInfo) :
    (s.raiseInvalidReference w).fwd = s.fwd := rfl
@[simp] theorem raiseInvalidReference_bwd (s : State) (w : RefInfo) :
    (s.raiseInvalidReference w).bwd = s.bwd := rfl
@[simp] theorem raiseInvalidReference_outcome (s : State) (w : RefInfo) :
    (s.raiseInvalidReference w).outcome = s.outcome := rfl
@[simp] theorem raiseInvalidReference_scan (s : State) (w : RefInfo) :
    (s.raiseInvalidReference w).scan = s.scan := rfl
@[simp] theorem raiseInvalidReference_res (s : State) (w : RefInfo) :
    (s.raiseInvalidReference w).res = Result.invalid w := rfl
@[simp] theorem raiseInvalidReference_resValid (s : State) (w : RefInfo) :
    (s.raiseInvalidReference w).resValid = true := rfl
@[simp] theorem raiseInvalidReference_sessionOpen (s : State) (w : RefInfo) :
    (s.raiseInvalidReference w).sessionOpen = s.sessionOpen := rfl
@[simp] theorem raiseInvalidReference_trace (s : State) (w : RefInfo) :
    (s.raiseInvalidReference w).trace = [] := rfl
@[simp] theorem raiseInvalidReference_ereg (s : State) (w : RefInfo) :
    (s.raiseInvalidReference w).ereg = s.ereg := rfl
@[simp] theorem raiseInvalidReference_qt (s : State) (w : RefInfo) :
    (s.raiseInvalidReference w).qt = s.qt := rfl
@[simp] theorem raiseInvalidReference_pending (s : State) (w : RefInfo) :
    (s.raiseInvalidReference w).pending = s.pending := rfl
@[simp] theorem raiseInvalidReference_mem (s : State) (w : RefInfo) :
    (s.raiseInvalidReference w).mem = s.mem := rfl
@[simp] theorem raiseInvalidReference_modeNext (s : State) (w : RefInfo) :
    (s.raiseInvalidReference w).modeNext = s.modeNext := rfl
@[simp] theorem raiseInvalidReference_draws (s : State) (w : RefInfo) :
    (s.raiseInvalidReference w).draws = s.draws := rfl
@[simp] theorem raiseInvalidReference_decodes (s : State) (w : RefInfo) :
    (s.raiseInvalidReference w).decodes = s.decodes := rfl
@[simp] theorem raiseInvalidReference_running (s : State) (w : RefInfo) :
    (s.raiseInvalidReference w).running = s.running := rfl
@[simp] theorem raiseInvalidReference_leftover (s : State) (w : RefInfo) :
    (s.raiseInvalidReference w).leftover = s.leftover := rfl
@[simp] theorem raiseInvalidReference_timeoutEvent (s : State) (w : RefInfo) :
    (s.raiseInvalidReference w).timeoutEvent = s.timeoutEvent := rfl
@[simp] theorem raiseInvalidReference_host (s : State) (w : RefInfo) :
    (s.raiseInvalidReference w).host = s.host := rfl
@[simp] theorem raiseInvalidReference_env (s : State) (w : RefInfo) :
    (s.raiseInvalidReference w).env = s.env := rfl
@[simp] theorem raiseInvalidReference_delivered (s : State) (w : RefInfo) :
    (s.raiseInvalidReference w).delivered = s.delivered := rfl

/-! ### the return to Idle -/

@[simp] theorem endTransaction_st (s : State) :
    (s.endTransaction).st = .idle := rfl
@[simp] theorem endTransaction_pc (s : State) :
    (s.endTransaction).pc = none := rfl
@[simp] theorem endTransaction_latch (s : State) :
    (s.endTransaction).latch = none := rfl
@[simp] theorem endTransaction_fwd (s : State) :
    (s.endTransaction).fwd = none := rfl
@[simp] theorem endTransaction_bwd (s : State) :
    (s.endTransaction).bwd = none := rfl
@[simp] theorem endTransaction_outcome (s : State) :
    (s.endTransaction).outcome = none := rfl
@[simp] theorem endTransaction_scan (s : State) :
    (s.endTransaction).scan = s.scan := rfl
@[simp] theorem endTransaction_res (s : State) :
    (s.endTransaction).res = s.res.withOutcome s.outcome := rfl
@[simp] theorem endTransaction_resValid (s : State) :
    (s.endTransaction).resValid = true := rfl
@[simp] theorem endTransaction_sessionOpen (s : State) :
    (s.endTransaction).sessionOpen = s.sessionOpen := rfl
@[simp] theorem endTransaction_trace (s : State) :
    (s.endTransaction).trace = s.trace := rfl
@[simp] theorem endTransaction_ereg (s : State) :
    (s.endTransaction).ereg = s.ereg := rfl
@[simp] theorem endTransaction_qt (s : State) :
    (s.endTransaction).qt = s.qt := rfl
@[simp] theorem endTransaction_pending (s : State) :
    (s.endTransaction).pending = s.pending := rfl
@[simp] theorem endTransaction_mem (s : State) :
    (s.endTransaction).mem = s.mem := rfl
@[simp] theorem endTransaction_modeNext (s : State) :
    (s.endTransaction).modeNext = s.modeNext := rfl
@[simp] theorem endTransaction_draws (s : State) :
    (s.endTransaction).draws = s.draws := rfl
@[simp] theorem endTransaction_decodes (s : State) :
    (s.endTransaction).decodes = s.decodes := rfl
@[simp] theorem endTransaction_running (s : State) :
    (s.endTransaction).running = s.running := rfl
@[simp] theorem endTransaction_leftover (s : State) :
    (s.endTransaction).leftover = (s.leftover || (decide (s.outcome = some .timeout) && s.running.contains s.decodes)) := rfl
@[simp] theorem endTransaction_timeoutEvent (s : State) :
    (s.endTransaction).timeoutEvent = s.timeoutEvent := rfl
@[simp] theorem endTransaction_host (s : State) :
    (s.endTransaction).host = s.host := rfl
@[simp] theorem endTransaction_env (s : State) :
    (s.endTransaction).env = s.env := rfl
@[simp] theorem endTransaction_delivered (s : State) :
    (s.endTransaction).delivered = s.delivered := rfl

/-! ### a wait that ends by completion -/

@[simp] theorem waitCompletes_st (s : State) (n : Nat) :
    (s.waitCompletes n).st = s.st := rfl
@[simp] theorem waitCompletes_pc (s : State) (n : Nat) :
    (s.waitCompletes n).pc = s.pc.map (Pc.after s.fwd s.bwd) := rfl
@[simp] theorem waitCompletes_latch (s : State) (n : Nat) :
    (s.waitCompletes n).latch = s.latch := rfl
@[simp] theorem waitCompletes_fwd (s : State) (n : Nat) :
    (s.waitCompletes n).fwd = s.fwd := rfl
@[simp] theorem waitCompletes_bwd (s : State) (n : Nat) :
    (s.waitCompletes n).bwd = s.bwd := rfl
@[simp] theorem waitCompletes_outcome (s : State) (n : Nat) :
    (s.waitCompletes n).outcome = some .ok := rfl
@[simp] theorem waitCompletes_scan (s : State) (n : Nat) :
    (s.waitCompletes n).scan = s.scan := rfl
@[simp] theorem waitCompletes_res (s : State) (n : Nat) :
    (s.waitCompletes n).res = s.res := rfl
@[simp] theorem waitCompletes_resValid (s : State) (n : Nat) :
    (s.waitCompletes n).resValid = s.resValid := rfl
@[simp] theorem waitCompletes_sessionOpen (s : State) (n : Nat) :
    (s.waitCompletes n).sessionOpen = s.sessionOpen := rfl
@[simp] theorem waitCompletes_trace (s : State) (n : Nat) :
    (s.waitCompletes n).trace = s.trace := rfl
@[simp] theorem waitCompletes_ereg (s : State) (n : Nat) :
    (s.waitCompletes n).ereg = s.ereg := rfl
@[simp] theorem waitCompletes_qt (s : State) (n : Nat) :
    (s.waitCompletes n).qt = s.qt := rfl
@[simp] theorem waitCompletes_pending (s : State) (n : Nat) :
    (s.waitCompletes n).pending = s.pending - n := rfl
@[simp] theorem waitCompletes_mem (s : State) (n : Nat) :
    (s.waitCompletes n).mem = s.mem := rfl
@[simp] theorem waitCompletes_modeNext (s : State) (n : Nat) :
    (s.waitCompletes n).modeNext = s.modeNext := rfl
@[simp] theorem waitCompletes_draws (s : State) (n : Nat) :
    (s.waitCompletes n).draws = s.draws := rfl
@[simp] theorem waitCompletes_decodes (s : State) (n : Nat) :
    (s.waitCompletes n).decodes = s.decodes := rfl
@[simp] theorem waitCompletes_running (s : State) (n : Nat) :
    (s.waitCompletes n).running = s.running := rfl
@[simp] theorem waitCompletes_leftover (s : State) (n : Nat) :
    (s.waitCompletes n).leftover = s.leftover := rfl
@[simp] theorem waitCompletes_timeoutEvent (s : State) (n : Nat) :
    (s.waitCompletes n).timeoutEvent = s.timeoutEvent := rfl
@[simp] theorem waitCompletes_host (s : State) (n : Nat) :
    (s.waitCompletes n).host = s.host := rfl
@[simp] theorem waitCompletes_env (s : State) (n : Nat) :
    (s.waitCompletes n).env = s.env := rfl
@[simp] theorem waitCompletes_delivered (s : State) (n : Nat) :
    (s.waitCompletes n).delivered = s.delivered := rfl

/-! ### a wait that ends by timeout -/

@[simp] theorem waitTimesOut_st (s : State) :
    (s.waitTimesOut).st = s.st := rfl
@[simp] theorem waitTimesOut_pc (s : State) :
    (s.waitTimesOut).pc = s.pc.map (Pc.after s.fwd s.bwd) := rfl
@[simp] theorem waitTimesOut_latch (s : State) :
    (s.waitTimesOut).latch = s.latch := rfl
@[simp] theorem waitTimesOut_fwd (s : State) :
    (s.waitTimesOut).fwd = s.fwd := rfl
@[simp] theorem waitTimesOut_bwd (s : State) :
    (s.waitTimesOut).bwd = s.bwd := rfl
@[simp] theorem waitTimesOut_outcome (s : State) :
    (s.waitTimesOut).outcome = some .timeout := rfl
@[simp] theorem waitTimesOut_scan (s : State) :
    (s.waitTimesOut).scan = s.scan := rfl
@[simp] theorem waitTimesOut_res (s : State) :
    (s.waitTimesOut).res = s.res := rfl
@[simp] theorem waitTimesOut_resValid (s : State) :
    (s.waitTimesOut).resValid = s.resValid := rfl
@[simp] theorem waitTimesOut_sessionOpen (s : State) :
    (s.waitTimesOut).sessionOpen = s.sessionOpen := rfl
@[simp] theorem waitTimesOut_trace (s : State) :
    (s.waitTimesOut).trace = s.trace := rfl
@[simp] theorem waitTimesOut_ereg (s : State) :
    (s.waitTimesOut).ereg = s.ereg := rfl
@[simp] theorem waitTimesOut_qt (s : State) :
    (s.waitTimesOut).qt = s.qt := rfl
@[simp] theorem waitTimesOut_pending (s : State) :
    (s.waitTimesOut).pending = s.pending := rfl
@[simp] theorem waitTimesOut_mem (s : State) :
    (s.waitTimesOut).mem = s.mem := rfl
@[simp] theorem waitTimesOut_modeNext (s : State) :
    (s.waitTimesOut).modeNext = s.modeNext := rfl
@[simp] theorem waitTimesOut_draws (s : State) :
    (s.waitTimesOut).draws = s.draws := rfl
@[simp] theorem waitTimesOut_decodes (s : State) :
    (s.waitTimesOut).decodes = s.decodes := rfl
@[simp] theorem waitTimesOut_running (s : State) :
    (s.waitTimesOut).running = s.running := rfl
@[simp] theorem waitTimesOut_leftover (s : State) :
    (s.waitTimesOut).leftover = s.leftover := rfl
@[simp] theorem waitTimesOut_timeoutEvent (s : State) :
    (s.waitTimesOut).timeoutEvent = s.timeoutEvent := rfl
@[simp] theorem waitTimesOut_host (s : State) :
    (s.waitTimesOut).host = s.host := rfl
@[simp] theorem waitTimesOut_env (s : State) :
    (s.waitTimesOut).env = s.env := rfl
@[simp] theorem waitTimesOut_delivered (s : State) :
    (s.waitTimesOut).delivered = s.delivered := rfl

/-! ### a draw -/

@[simp] theorem drew_st (s : State) :
    (s.drew).st = s.st := rfl
@[simp] theorem drew_pc (s : State) :
    (s.drew).pc = s.pc := rfl
@[simp] theorem drew_latch (s : State) :
    (s.drew).latch = s.latch := rfl
@[simp] theorem drew_fwd (s : State) :
    (s.drew).fwd = s.fwd := rfl
@[simp] theorem drew_bwd (s : State) :
    (s.drew).bwd = s.bwd := rfl
@[simp] theorem drew_outcome (s : State) :
    (s.drew).outcome = s.outcome := rfl
@[simp] theorem drew_scan (s : State) :
    (s.drew).scan = s.scan := rfl
@[simp] theorem drew_res (s : State) :
    (s.drew).res = s.res := rfl
@[simp] theorem drew_resValid (s : State) :
    (s.drew).resValid = s.resValid := rfl
@[simp] theorem drew_sessionOpen (s : State) :
    (s.drew).sessionOpen = s.sessionOpen := rfl
@[simp] theorem drew_trace (s : State) :
    (s.drew).trace = s.trace := rfl
@[simp] theorem drew_ereg (s : State) :
    (s.drew).ereg = s.ereg := rfl
@[simp] theorem drew_qt (s : State) :
    (s.drew).qt = s.qt := rfl
@[simp] theorem drew_pending (s : State) :
    (s.drew).pending = s.pending := rfl
@[simp] theorem drew_mem (s : State) :
    (s.drew).mem = s.mem := rfl
@[simp] theorem drew_modeNext (s : State) :
    (s.drew).modeNext = s.modeNext := rfl
@[simp] theorem drew_draws (s : State) :
    (s.drew).draws = s.draws + 1 := rfl
@[simp] theorem drew_decodes (s : State) :
    (s.drew).decodes = s.decodes := rfl
@[simp] theorem drew_running (s : State) :
    (s.drew).running = s.running := rfl
@[simp] theorem drew_leftover (s : State) :
    (s.drew).leftover = s.leftover := rfl
@[simp] theorem drew_timeoutEvent (s : State) :
    (s.drew).timeoutEvent = s.timeoutEvent := rfl
@[simp] theorem drew_host (s : State) :
    (s.drew).host = s.host := rfl
@[simp] theorem drew_env (s : State) :
    (s.drew).env = s.env := rfl
@[simp] theorem drew_delivered (s : State) :
    (s.drew).delivered = s.delivered := rfl

/-! ### the session start -/

@[simp] theorem sessionStart_st (s : State) :
    (s.sessionStart).st = .idle := rfl
@[simp] theorem sessionStart_pc (s : State) :
    (s.sessionStart).pc = none := rfl
@[simp] theorem sessionStart_latch (s : State) :
    (s.sessionStart).latch = none := rfl
@[simp] theorem sessionStart_fwd (s : State) :
    (s.sessionStart).fwd = none := rfl
@[simp] theorem sessionStart_bwd (s : State) :
    (s.sessionStart).bwd = none := rfl
@[simp] theorem sessionStart_outcome (s : State) :
    (s.sessionStart).outcome = none := rfl
@[simp] theorem sessionStart_scan (s : State) :
    (s.sessionStart).scan = none := rfl
@[simp] theorem sessionStart_res (s : State) :
    (s.sessionStart).res = State.reset.res := rfl
@[simp] theorem sessionStart_resValid (s : State) :
    (s.sessionStart).resValid = false := rfl
@[simp] theorem sessionStart_sessionOpen (s : State) :
    (s.sessionStart).sessionOpen = true := rfl
@[simp] theorem sessionStart_trace (s : State) :
    (s.sessionStart).trace = [] := rfl
@[simp] theorem sessionStart_ereg (s : State) :
    (s.sessionStart).ereg = Vector.replicate 20 none := rfl
@[simp] theorem sessionStart_qt (s : State) :
    (s.sessionStart).qt = resetTable s.draws := rfl
@[simp] theorem sessionStart_pending (s : State) :
    (s.sessionStart).pending = 0 := rfl
@[simp] theorem sessionStart_mem (s : State) :
    (s.sessionStart).mem = s.mem := rfl
@[simp] theorem sessionStart_modeNext (s : State) :
    (s.sessionStart).modeNext = Config.modeDraw s.draws := rfl
@[simp] theorem sessionStart_draws (s : State) :
    (s.sessionStart).draws = s.draws + 1 := rfl
@[simp] theorem sessionStart_decodes (s : State) :
    (s.sessionStart).decodes = 0 := rfl
@[simp] theorem sessionStart_running (s : State) :
    (s.sessionStart).running = [] := rfl
@[simp] theorem sessionStart_leftover (s : State) :
    (s.sessionStart).leftover = false := rfl
@[simp] theorem sessionStart_timeoutEvent (s : State) :
    (s.sessionStart).timeoutEvent = false := rfl
@[simp] theorem sessionStart_host (s : State) :
    (s.sessionStart).host = s.host := rfl
@[simp] theorem sessionStart_env (s : State) :
    (s.sessionStart).env = s.env := rfl
@[simp] theorem sessionStart_delivered (s : State) :
    (s.sessionStart).delivered = s.delivered := rfl

/-! ### the start of a wait -/

@[simp] theorem beginWait_st (s : State) (n : Nat) :
    (s.beginWait n).st = .awaitingCompletion := by
  unfold State.beginWait; split <;> simp_all
@[simp] theorem beginWait_pc (s : State) (n : Nat) :
    (s.beginWait n).pc = s.pc := by
  unfold State.beginWait; split <;> rfl
@[simp] theorem beginWait_latch (s : State) (n : Nat) :
    (s.beginWait n).latch = s.latch := by
  unfold State.beginWait; split <;> rfl
@[simp] theorem beginWait_fwd (s : State) (n : Nat) :
    (s.beginWait n).fwd = s.fwd := by
  unfold State.beginWait; split <;> rfl
@[simp] theorem beginWait_bwd (s : State) (n : Nat) :
    (s.beginWait n).bwd = s.bwd := by
  unfold State.beginWait; split <;> rfl
@[simp] theorem beginWait_outcome (s : State) (n : Nat) :
    (s.beginWait n).outcome = s.outcome := by
  unfold State.beginWait; split <;> rfl
@[simp] theorem beginWait_scan (s : State) (n : Nat) :
    (s.beginWait n).scan = s.scan := by
  unfold State.beginWait; split <;> rfl
@[simp] theorem beginWait_res (s : State) (n : Nat) :
    (s.beginWait n).res = s.res := by
  unfold State.beginWait; split <;> rfl
@[simp] theorem beginWait_resValid (s : State) (n : Nat) :
    (s.beginWait n).resValid = s.resValid := by
  unfold State.beginWait; split <;> rfl
@[simp] theorem beginWait_sessionOpen (s : State) (n : Nat) :
    (s.beginWait n).sessionOpen = s.sessionOpen := by
  unfold State.beginWait; split <;> rfl
@[simp] theorem beginWait_trace (s : State) (n : Nat) :
    (s.beginWait n).trace = if s.st = .awaitingCompletion then s.trace else s.trace ++ [.wait n] := by
  unfold State.beginWait; split <;> rfl
@[simp] theorem beginWait_ereg (s : State) (n : Nat) :
    (s.beginWait n).ereg = s.ereg := by
  unfold State.beginWait; split <;> rfl
@[simp] theorem beginWait_qt (s : State) (n : Nat) :
    (s.beginWait n).qt = s.qt := by
  unfold State.beginWait; split <;> rfl
@[simp] theorem beginWait_pending (s : State) (n : Nat) :
    (s.beginWait n).pending = s.pending := by
  unfold State.beginWait; split <;> rfl
@[simp] theorem beginWait_mem (s : State) (n : Nat) :
    (s.beginWait n).mem = s.mem := by
  unfold State.beginWait; split <;> rfl
@[simp] theorem beginWait_modeNext (s : State) (n : Nat) :
    (s.beginWait n).modeNext = s.modeNext := by
  unfold State.beginWait; split <;> rfl
@[simp] theorem beginWait_draws (s : State) (n : Nat) :
    (s.beginWait n).draws = s.draws := by
  unfold State.beginWait; split <;> rfl
@[simp] theorem beginWait_decodes (s : State) (n : Nat) :
    (s.beginWait n).decodes = s.decodes := by
  unfold State.beginWait; split <;> rfl
@[simp] theorem beginWait_running (s : State) (n : Nat) :
    (s.beginWait n).running = s.running := by
  unfold State.beginWait; split <;> rfl
@[simp] theorem beginWait_leftover (s : State) (n : Nat) :
    (s.beginWait n).leftover = s.leftover := by
  unfold State.beginWait; split <;> rfl
@[simp] theorem beginWait_timeoutEvent (s : State) (n : Nat) :
    (s.beginWait n).timeoutEvent = s.timeoutEvent := by
  unfold State.beginWait; split <;> rfl
@[simp] theorem beginWait_host (s : State) (n : Nat) :
    (s.beginWait n).host = s.host := by
  unfold State.beginWait; split <;> rfl
@[simp] theorem beginWait_env (s : State) (n : Nat) :
    (s.beginWait n).env = s.env := by
  unfold State.beginWait; split <;> rfl
@[simp] theorem beginWait_delivered (s : State) (n : Nat) :
    (s.beginWait n).delivered = s.delivered := by
  unfold State.beginWait; split <;> rfl

/-! ### the engine's and the timer's turn: the fields it never changes -/

@[simp] theorem envMove_st (s : State) (m : EnvMove) : (s.envMove m).st = s.st := by
  cases m <;> simp only [State.envMove] <;> split <;> rfl
@[simp] theorem envMoves_st (s : State) (ms : List EnvMove) : (s.envMoves ms).st = s.st := by
  induction ms generalizing s with
  | nil => rfl
  | cons m rest ih => simp [State.envMoves, ih]
@[simp] theorem envTurn_st (s : State) : s.envTurn.st = s.st := by
  unfold State.envTurn; split <;> simp
@[simp] theorem envMove_pc (s : State) (m : EnvMove) : (s.envMove m).pc = s.pc := by
  cases m <;> simp only [State.envMove] <;> split <;> rfl
@[simp] theorem envMoves_pc (s : State) (ms : List EnvMove) : (s.envMoves ms).pc = s.pc := by
  induction ms generalizing s with
  | nil => rfl
  | cons m rest ih => simp [State.envMoves, ih]
@[simp] theorem envTurn_pc (s : State) : s.envTurn.pc = s.pc := by
  unfold State.envTurn; split <;> simp
@[simp] theorem envMove_latch (s : State) (m : EnvMove) : (s.envMove m).latch = s.latch := by
  cases m <;> simp only [State.envMove] <;> split <;> rfl
@[simp] theorem envMoves_latch (s : State) (ms : List EnvMove) : (s.envMoves ms).latch = s.latch := by
  induction ms generalizing s with
  | nil => rfl
  | cons m rest ih => simp [State.envMoves, ih]
@[simp] theorem envTurn_latch (s : State) : s.envTurn.latch = s.latch := by
  unfold State.envTurn; split <;> simp
@[simp] theorem envMove_fwd (s : State) (m : EnvMove) : (s.envMove m).fwd = s.fwd := by
  cases m <;> simp only [State.envMove] <;> split <;> rfl
@[simp] theorem envMoves_fwd (s : State) (ms : List EnvMove) : (s.envMoves ms).fwd = s.fwd := by
  induction ms generalizing s with
  | nil => rfl
  | cons m rest ih => simp [State.envMoves, ih]
@[simp] theorem envTurn_fwd (s : State) : s.envTurn.fwd = s.fwd := by
  unfold State.envTurn; split <;> simp
@[simp] theorem envMove_bwd (s : State) (m : EnvMove) : (s.envMove m).bwd = s.bwd := by
  cases m <;> simp only [State.envMove] <;> split <;> rfl
@[simp] theorem envMoves_bwd (s : State) (ms : List EnvMove) : (s.envMoves ms).bwd = s.bwd := by
  induction ms generalizing s with
  | nil => rfl
  | cons m rest ih => simp [State.envMoves, ih]
@[simp] theorem envTurn_bwd (s : State) : s.envTurn.bwd = s.bwd := by
  unfold State.envTurn; split <;> simp
@[simp] theorem envMove_outcome (s : State) (m : EnvMove) : (s.envMove m).outcome = s.outcome := by
  cases m <;> simp only [State.envMove] <;> split <;> rfl
@[simp] theorem envMoves_outcome (s : State) (ms : List EnvMove) : (s.envMoves ms).outcome = s.outcome := by
  induction ms generalizing s with
  | nil => rfl
  | cons m rest ih => simp [State.envMoves, ih]
@[simp] theorem envTurn_outcome (s : State) : s.envTurn.outcome = s.outcome := by
  unfold State.envTurn; split <;> simp
@[simp] theorem envMove_scan (s : State) (m : EnvMove) : (s.envMove m).scan = s.scan := by
  cases m <;> simp only [State.envMove] <;> split <;> rfl
@[simp] theorem envMoves_scan (s : State) (ms : List EnvMove) : (s.envMoves ms).scan = s.scan := by
  induction ms generalizing s with
  | nil => rfl
  | cons m rest ih => simp [State.envMoves, ih]
@[simp] theorem envTurn_scan (s : State) : s.envTurn.scan = s.scan := by
  unfold State.envTurn; split <;> simp
@[simp] theorem envMove_res (s : State) (m : EnvMove) : (s.envMove m).res = s.res := by
  cases m <;> simp only [State.envMove] <;> split <;> rfl
@[simp] theorem envMoves_res (s : State) (ms : List EnvMove) : (s.envMoves ms).res = s.res := by
  induction ms generalizing s with
  | nil => rfl
  | cons m rest ih => simp [State.envMoves, ih]
@[simp] theorem envTurn_res (s : State) : s.envTurn.res = s.res := by
  unfold State.envTurn; split <;> simp
@[simp] theorem envMove_resValid (s : State) (m : EnvMove) : (s.envMove m).resValid = s.resValid := by
  cases m <;> simp only [State.envMove] <;> split <;> rfl
@[simp] theorem envMoves_resValid (s : State) (ms : List EnvMove) : (s.envMoves ms).resValid = s.resValid := by
  induction ms generalizing s with
  | nil => rfl
  | cons m rest ih => simp [State.envMoves, ih]
@[simp] theorem envTurn_resValid (s : State) : s.envTurn.resValid = s.resValid := by
  unfold State.envTurn; split <;> simp
@[simp] theorem envMove_sessionOpen (s : State) (m : EnvMove) : (s.envMove m).sessionOpen = s.sessionOpen := by
  cases m <;> simp only [State.envMove] <;> split <;> rfl
@[simp] theorem envMoves_sessionOpen (s : State) (ms : List EnvMove) : (s.envMoves ms).sessionOpen = s.sessionOpen := by
  induction ms generalizing s with
  | nil => rfl
  | cons m rest ih => simp [State.envMoves, ih]
@[simp] theorem envTurn_sessionOpen (s : State) : s.envTurn.sessionOpen = s.sessionOpen := by
  unfold State.envTurn; split <;> simp
@[simp] theorem envMove_trace (s : State) (m : EnvMove) : (s.envMove m).trace = s.trace := by
  cases m <;> simp only [State.envMove] <;> split <;> rfl
@[simp] theorem envMoves_trace (s : State) (ms : List EnvMove) : (s.envMoves ms).trace = s.trace := by
  induction ms generalizing s with
  | nil => rfl
  | cons m rest ih => simp [State.envMoves, ih]
@[simp] theorem envTurn_trace (s : State) : s.envTurn.trace = s.trace := by
  unfold State.envTurn; split <;> simp
@[simp] theorem envMove_ereg (s : State) (m : EnvMove) : (s.envMove m).ereg = s.ereg := by
  cases m <;> simp only [State.envMove] <;> split <;> rfl
@[simp] theorem envMoves_ereg (s : State) (ms : List EnvMove) : (s.envMoves ms).ereg = s.ereg := by
  induction ms generalizing s with
  | nil => rfl
  | cons m rest ih => simp [State.envMoves, ih]
@[simp] theorem envTurn_ereg (s : State) : s.envTurn.ereg = s.ereg := by
  unfold State.envTurn; split <;> simp
@[simp] theorem envMove_qt (s : State) (m : EnvMove) : (s.envMove m).qt = s.qt := by
  cases m <;> simp only [State.envMove] <;> split <;> rfl
@[simp] theorem envMoves_qt (s : State) (ms : List EnvMove) : (s.envMoves ms).qt = s.qt := by
  induction ms generalizing s with
  | nil => rfl
  | cons m rest ih => simp [State.envMoves, ih]
@[simp] theorem envTurn_qt (s : State) : s.envTurn.qt = s.qt := by
  unfold State.envTurn; split <;> simp
@[simp] theorem envMove_draws (s : State) (m : EnvMove) : (s.envMove m).draws = s.draws := by
  cases m <;> simp only [State.envMove] <;> split <;> rfl
@[simp] theorem envMoves_draws (s : State) (ms : List EnvMove) : (s.envMoves ms).draws = s.draws := by
  induction ms generalizing s with
  | nil => rfl
  | cons m rest ih => simp [State.envMoves, ih]
@[simp] theorem envTurn_draws (s : State) : s.envTurn.draws = s.draws := by
  unfold State.envTurn; split <;> simp
@[simp] theorem envMove_decodes (s : State) (m : EnvMove) : (s.envMove m).decodes = s.decodes := by
  cases m <;> simp only [State.envMove] <;> split <;> rfl
@[simp] theorem envMoves_decodes (s : State) (ms : List EnvMove) : (s.envMoves ms).decodes = s.decodes := by
  induction ms generalizing s with
  | nil => rfl
  | cons m rest ih => simp [State.envMoves, ih]
@[simp] theorem envTurn_decodes (s : State) : s.envTurn.decodes = s.decodes := by
  unfold State.envTurn; split <;> simp
@[simp] theorem envMove_leftover (s : State) (m : EnvMove) : (s.envMove m).leftover = s.leftover := by
  cases m <;> simp only [State.envMove] <;> split <;> rfl
@[simp] theorem envMoves_leftover (s : State) (ms : List EnvMove) : (s.envMoves ms).leftover = s.leftover := by
  induction ms generalizing s with
  | nil => rfl
  | cons m rest ih => simp [State.envMoves, ih]
@[simp] theorem envTurn_leftover (s : State) : s.envTurn.leftover = s.leftover := by
  unfold State.envTurn; split <;> simp
@[simp] theorem envMove_host (s : State) (m : EnvMove) : (s.envMove m).host = s.host := by
  cases m <;> simp only [State.envMove] <;> split <;> rfl
@[simp] theorem envMoves_host (s : State) (ms : List EnvMove) : (s.envMoves ms).host = s.host := by
  induction ms generalizing s with
  | nil => rfl
  | cons m rest ih => simp [State.envMoves, ih]
@[simp] theorem envTurn_host (s : State) : s.envTurn.host = s.host := by
  unfold State.envTurn; split <;> simp
@[simp] theorem envMove_delivered (s : State) (m : EnvMove) : (s.envMove m).delivered = s.delivered := by
  cases m <;> simp only [State.envMove] <;> split <;> rfl
@[simp] theorem envMoves_delivered (s : State) (ms : List EnvMove) : (s.envMoves ms).delivered = s.delivered := by
  induction ms generalizing s with
  | nil => rfl
  | cons m rest ih => simp [State.envMoves, ih]
@[simp] theorem envTurn_delivered (s : State) : s.envTurn.delivered = s.delivered := by
  unfold State.envTurn; split <;> simp

end Sys2Proof.Machine
end

