-- ==== Sys2Proof/Laws/Ops.lean ====
section
/-! SUPPORT. For each shared operation, one lemma that says what it can do, and the inversion of the step:
what a step that answers a next state has done. -/

namespace Sys2Proof.Machine

/-! ## The register file -/

/-- `EReg` after a write: the word at the register written, unless it is `REG_STATUS`; every other
register as before. -/
theorem storeReg_get (e : Vector (Option Word) 20) (r r' : Reg) (v : Word) :
    (storeReg e r v)[r'.index] = if r' = r ∧ r ≠ .status then some v else e[r'.index] := by
  by_cases hs : r = .status
  · subst hs; simp [storeReg]
  · have hst : storeReg e r v = e.set r.index (some v) := by cases r <;> first | rfl | exact absurd rfl hs
    rw [hst]
    by_cases h : r' = r
    · subst h; simp [hs]
    · have hne : r.index.val ≠ r'.index.val := fun he => h (Reg.index_injective (Fin.ext he)).symm
      simp [h, hne]

@[simp] theorem reg_regWrite (s : State) (r r' : Reg) (v : Word) :
    (s.regWrite r v).reg r' = if r' = r ∧ r ≠ .status then some v else s.reg r' :=
  storeReg_get s.ereg r r' v

@[simp] theorem reg_busWrite (s : State) (r r' : Reg) (v : Word) :
    (s.busWrite r v).reg r' = if r' = r ∧ r ≠ .status then some v else s.reg r' :=
  storeReg_get s.ereg r r' v

@[simp] theorem reg_modeRmw (s : State) (r' : Reg) (v : Word) (m : BitVec 4) :
    (s.modeRmw v m).reg r' = if r' = .mode then some (modeWord v m) else s.reg r' := by
  have h := storeReg_get s.ereg .mode r' (modeWord v m)
  simp only [ne_eq, reduceCtorEq, not_false_eq_true, and_true] at h
  exact h

@[simp] theorem reg_advance (s : State) (r : Reg) : s.advance.reg r = s.reg r := rfl
@[simp] theorem reg_modeRead (s : State) (v : Word) (r : Reg) : (s.modeRead v).reg r = s.reg r := rfl
@[simp] theorem reg_finishScan (s : State) (o : Nat) (f : Bool) (r : Reg) :
    (s.finishScan o f).reg r = s.reg r := rfl
@[simp] theorem reg_endTransaction (s : State) (r : Reg) : s.endTransaction.reg r = s.reg r := rfl
@[simp] theorem reg_raiseInvalidReference (s : State) (w : RefInfo) (r : Reg) :
    (s.raiseInvalidReference w).reg r = s.reg r := rfl
@[simp] theorem reg_waitCompletes (s : State) (n : Nat) (r : Reg) :
    (s.waitCompletes n).reg r = s.reg r := rfl
@[simp] theorem reg_waitTimesOut (s : State) (r : Reg) : s.waitTimesOut.reg r = s.reg r := rfl
@[simp] theorem reg_drew (s : State) (r : Reg) : s.drew.reg r = s.reg r := rfl
@[simp] theorem reg_beginWait (s : State) (n : Nat) (r : Reg) : (s.beginWait n).reg r = s.reg r := by
  simp [State.reg]
@[simp] theorem reg_envTurn (s : State) (r : Reg) : s.envTurn.reg r = s.reg r := by
  simp [State.reg]
@[simp] theorem reg_sessionStart (s : State) (r : Reg) : s.sessionStart.reg r = none := by
  simp [State.reg, State.sessionStart, State.reset]
@[simp] theorem reg_reset (r : Reg) : State.reset.reg r = none := by
  simp [State.reg, State.reset]

/-! ## The wait -/

/-- What a wait does: it ends by completion with `n` events there, or by a timeout event that the
parameter allows, or holds with neither. -/
theorem execWait_cases (n : Nat) (s : State) :
    (n ≤ s.pending ∧ ∃ w, (w = s.beginWait n ∨ w = (s.beginWait n).drew) ∧
      execWait n s = .next (w.waitCompletes n)) ∨
    (s.timeoutEvent = true ∧ Config.waitTimeout = true ∧
      ∃ w, (w = s.beginWait n ∨ w = (s.beginWait n).drew) ∧ execWait n s = .next w.waitTimesOut) ∨
    (¬ n ≤ s.pending ∧ ¬ (s.timeoutEvent = true ∧ Config.waitTimeout = true) ∧
      execWait n s = .next (s.beginWait n)) := by
  unfold execWait
  by_cases h1 : n ≤ s.pending <;> by_cases h2 : s.timeoutEvent = true <;>
    by_cases h3 : Config.waitTimeout = true <;> by_cases h4 : Config.waitChoice s.draws = true <;>
    simp [h1, h2, h3, h4]

/-! ## The other agents -/

/-- What one move of the engine or the timer does. -/
theorem envMove_cases (s : State) (m : EnvMove) :
    s.envMove m = s ∨
    (∃ d, m = .completes d ∧ d ∈ s.running ∧
      s.envMove m = { s with pending := s.pending + 1, running := s.running.erase d }) ∨
    (∃ w, s.envMove m = { s with modeNext := w }) ∨
    (s.running ≠ [] ∧ ∃ a b, inBuffer s.latch a = false ∧
      s.envMove m = { s with mem := Memory.write s.mem a b }) ∨
    s.envMove m = { s with timeoutEvent := true } := by
  cases m with
  | completes d =>
    by_cases h : d ∈ s.running
    · exact .inr (.inl ⟨d, rfl, h, by simp [State.envMove, h]⟩)
    · exact .inl (by simp [State.envMove, h])
  | modeBecomes w => exact .inr (.inr (.inl ⟨w, rfl⟩))
  | storesPixel a b =>
    by_cases h : s.running ≠ [] ∧ inBuffer s.latch a = false
    · exact .inr (.inr (.inr (.inl ⟨h.1, a, b, h.2, by simp [State.envMove, h.1, h.2]⟩)))
    · refine .inl ?_
      simp only [State.envMove]
      rw [if_neg]
      simpa using h
  | timeoutFires => exact .inr (.inr (.inr (.inr rfl)))

/-- The turn with a list of moves: they run one after another, with no timeout event before them. -/
theorem envTurn_of_cons {s : State} {ms : List EnvMove} {rest : List (List EnvMove)} (h : s.env = ms :: rest) :
    s.envTurn = { s with env := rest, timeoutEvent := false }.envMoves ms := by
  simp [State.envTurn, h]

/-- The turn with no move left: only a timeout event of the step before ends. -/
theorem envTurn_of_nil {s : State} (h : s.env = []) : s.envTurn = { s with timeoutEvent := false } := by
  simp [State.envTurn, h]

/-- A property that the end of the timeout event and every move keep, the turn keeps. -/
theorem envTurn_keeps {P : State → Prop} (s : State) (h0 : ∀ e, P { s with env := e, timeoutEvent := false })
    (hm : ∀ e m, P e → P (e.envMove m)) : P s.envTurn := by
  have hms : ∀ (ms : List EnvMove) (e : State), P e → P (e.envMoves ms) := by
    intro ms
    induction ms with
    | nil => exact fun _ h => h
    | cons m rest ih => exact fun e h => ih _ (hm e m h)
  unfold State.envTurn
  split
  · exact h0 s.env
  · exact hms _ _ (h0 _)

/-- What an accepted request does: one of the two errors, or the scan begins. -/
theorem accept_cases {s t : State} {q : Request} (h : s.accept q = .next t) :
    q.wf = true ∧
    ((resolveRef q.forwardRef = none ∧ t = s.raiseInvalidReference .fwd) ∨
     (∃ f, resolveRef q.forwardRef = some f ∧
      ((resolveRef q.backwardRef = none ∧ t = s.raiseInvalidReference .bwd) ∨
       ∃ b, resolveRef q.backwardRef = some b ∧
        t = { s with latch := some q, fwd := f, bwd := b, outcome := none,
                     scan := some Scanner.start, trace := [] }))) := by
  unfold State.accept at h
  split at h
  · refine ⟨‹_›, ?_⟩
    split at h
    · cases h; exact .inl ⟨‹_›, rfl⟩
    · split at h
      · cases h; exact .inr ⟨_, ‹_›, .inl ⟨‹_›, rfl⟩⟩
      · cases h; exact .inr ⟨_, ‹_›, .inr ⟨_, ‹_›, rfl⟩⟩
  · cases h

/-- What the host's turn does. -/
theorem hostTurn_cases {s t : State} (h : s.hostTurn = .next t) :
    t = s ∨
    (∃ q rest, s.host = .request q :: rest ∧ s.sessionOpen = true ∧
      { s with host := rest }.accept q = .next t) ∨
    (∃ rest, s.host = .readResult :: rest ∧ s.resValid = true ∧
      t = { s with host := rest, delivered := some s.res }) ∨
    (∃ a b rest, s.host = .store a b :: rest ∧
      t = { s with host := rest, mem := Memory.write s.mem a b }) ∨
    (∃ rest, s.host = .teardown :: rest ∧ t = { s with host := rest, sessionOpen := false }) ∨
    (∃ rest, s.host = .sessionStart :: rest ∧ t = { s with host := rest }.sessionStart) := by
  unfold State.hostTurn at h
  split at h
  · cases h; exact .inl rfl
  · split at h
    · exact .inr (.inl ⟨_, _, ‹_›, ‹_›, h⟩)
    · cases h; exact .inl rfl
  · split at h
    · cases h; exact .inr (.inr (.inl ⟨_, ‹_›, ‹_›, rfl⟩))
    · cases h
  · cases h; exact .inr (.inr (.inr (.inl ⟨_, _, _, ‹_›, rfl⟩)))
  · cases h; exact .inr (.inr (.inr (.inr (.inl ⟨_, ‹_›, rfl⟩))))
  · cases h; exact .inr (.inr (.inr (.inr (.inr ⟨_, ‹_›, rfl⟩))))

/-! ## The step -/

/-- When an operation of the transaction is what the DFE does, the step pointer names it. -/
theorem activity_of_issue {s : State} (hst : s.st ≠ .idle) {i : Instr} (h : s.issue = some i) :
    s.activity = .instr i := by
  unfold State.activity
  split
  · contradiction
  all_goals simp [h]

/-- What the DFE may do next: the host's turn, a look of the scan, the scan's end, a start code, or the
operation the step pointer names. -/
theorem activity_cases (s : State) :
    (s.st = .idle ∧ s.latch = none ∧ s.activity = .host) ∨
    (s.st = .idle ∧ ∃ q sc, s.latch = some q ∧ s.scan = some sc ∧
      s.activity = scanActivity s.mem q sc) ∨
    (s.st ≠ .idle ∧ ∃ i, s.issue = some i ∧ s.activity = .instr i) ∨
    s.activity = .unknown := by
  by_cases hst : s.st = .idle
  · cases hl : s.latch with
    | none => exact .inl ⟨hst, rfl, by simp [State.activity, hst, hl]⟩
    | some q =>
      cases hs : s.scan with
      | none => exact .inr (.inr (.inr (by simp [State.activity, hst, hl, hs])))
      | some sc => exact .inr (.inl ⟨hst, q, sc, rfl, rfl, by simp [State.activity, hst, hl, hs]⟩)
  · cases hi : s.issue with
    | some i => exact .inr (.inr (.inl ⟨hst, i, rfl, activity_of_issue hst hi⟩))
    | none =>
      refine .inr (.inr (.inr ?_))
      unfold State.activity
      split
      · contradiction
      all_goals simp [hi]

/-- What a look of the scan is: the end of the buffer, one byte, or a start code after a prefix. -/
theorem scanActivity_cases (m : List Host.Cell) (q : Request) (sc : Scanner) :
    (q.len ≤ sc.i ∧ scanActivity m q sc = .finish) ∨
    (sc.i < q.len ∧ sc.hit = false ∧ scanActivity m q sc = .pass q sc) ∨
    (sc.i < q.len ∧ sc.hit = true ∧ ∃ w, codeWindow m q sc.i = .ok w ∧
      ∃ b, (decodeWindow w = .ok (.scQualifying b) ∧ scanActivity m q sc = .instr (.scQualifying b)) ∨
        (decodeWindow w = .ok (.scNonqualifying b) ∧
          scanActivity m q sc = .instr (.scNonqualifying b))) ∨
    (∃ f, scanActivity m q sc = .stop f) ∨
    scanActivity m q sc = .unknown := by
  unfold scanActivity
  by_cases h1 : q.len ≤ sc.i
  · exact .inl ⟨h1, by simp [h1]⟩
  · simp only [h1, if_false]
    by_cases h2 : sc.hit = true
    · simp only [h2, if_true]
      cases hw : codeWindow m q sc.i with
      | error f => exact .inr (.inr (.inr (.inl ⟨f, rfl⟩)))
      | ok w =>
        by_cases hd : w.extractLsb' 8 24 = 1#24
        · refine .inr (.inr (.inl ⟨by omega, trivial, w, rfl, w.extractLsb' 0 8, ?_⟩))
          by_cases hq : qualifying (w.extractLsb' 0 8) = true
          · exact .inl (by simp [decode, decodeWindow, hd, hq])
          · exact .inr (by simp [decode, decodeWindow, hd, hq])
        · exact .inr (.inr (.inr (.inr (by simp [decode, decodeWindow, hd]))))
    · simp only [h2]
      exact .inr (.inl ⟨by omega, trivial, rfl⟩)

/-- What a step that answers a next state has done after the engine's and the timer's turn `e`. -/
theorem step_cases {s t : State} (h : step s = .next t) :
    ∃ e, e = s.envTurn ∧
    ((e.st = .idle ∧ e.latch = none ∧ e.hostTurn = .next t) ∨
     (e.st = .idle ∧ ∃ q sc, e.latch = some q ∧ e.scan = some sc ∧
      ((q.len ≤ sc.i ∧ t = e.scanEnd) ∨
       (sc.i < q.len ∧ sc.hit = false ∧
        t = { e with scan := some (sc.pass (Memory.read e.mem (q.bufVa + sc.i))) }) ∨
       (sc.i < q.len ∧ sc.hit = true ∧ ∃ w b, codeWindow e.mem q sc.i = .ok w ∧
        ((decodeWindow w = .ok (.scQualifying b) ∧ 3 ≤ sc.i ∧ t = e.finishScan (sc.i - 3) true) ∨
         (decodeWindow w = .ok (.scNonqualifying b) ∧ t = { e with scan := some sc.resume }))))) ∨
     (e.st ≠ .idle ∧ ∃ i, e.issue = some i ∧ exec i e = .next t)) := by
  refine ⟨s.envTurn, rfl, ?_⟩
  unfold step at h
  simp only at h
  generalize s.envTurn = e at h
  rcases activity_cases e with ⟨h1, h2, ha⟩ | ⟨h1, q, sc, h2, h3, ha⟩ | ⟨h1, i, h2, ha⟩ | ha
  · rw [ha] at h; exact .inl ⟨h1, h2, h⟩
  · refine .inr (.inl ⟨h1, q, sc, h2, h3, ?_⟩)
    rcases scanActivity_cases e.mem q sc with ⟨h4, hb⟩ | ⟨h4, h5, hb⟩ | ⟨h4, h5, w, h6, b, hb⟩ | ⟨f, hb⟩ | hb
    · rw [ha, hb] at h; cases h; exact .inl ⟨h4, rfl⟩
    · rw [ha, hb] at h
      refine .inr (.inl ⟨h4, h5, ?_⟩)
      simp only [State.scanPass, bufByte, h4, if_true] at h
      cases h; rfl
    · refine .inr (.inr ⟨h4, h5, w, b, h6, ?_⟩)
      rcases hb with ⟨hd, hb⟩ | ⟨hd, hb⟩
      · rw [ha, hb] at h
        simp only [exec, execScQualifying, h3] at h
        split at h
        · cases h
        · cases h; exact .inl ⟨hd, by omega, rfl⟩
      · rw [ha, hb] at h
        simp only [exec, execScNonqualifying, h3] at h
        cases h; exact .inr ⟨hd, rfl⟩
    · rw [ha, hb] at h; cases h
    · rw [ha, hb] at h; cases h
  · rw [ha] at h; exact .inr (.inr ⟨h1, i, h2, h⟩)
  · rw [ha] at h; cases h

end Sys2Proof.Machine
end

