-- ==== Sys2Proof/Laws/PerInstr.lean ====
section
/-! SUPPORT. Statements made for every operation, one lemma per constructor: an operation's word belongs
to its row of spec/opcode_table.json, `word & mask = match` (spec/30_encoding.md R85, R86). -/

namespace Sys2Proof.Laws.RowWord

/-- The data word of an operation, where its row has one (R70, R83). -/
def dataWord (i : Instr) : Option Word :=
  match encode i with
  | .window w => some w
  | .write _ w => some w
  | .rmw _ _ _ w => some w
  | .wait _ => none

/-- The mask and the match of an operation's row, as the table gives them. -/
def row : Instr → Word × Word
  | .scQualifying _ => (0xFFFFFF00, 0x00000100)
  | .scNonqualifying _ => (0xFFFFFF00, 0x00000100)
  | .modeEnter _ => (0x0000000F, 0)
  | .iqIntra _ _ => (0xFFFFC000, 0x00004000)
  | .iqNonintra _ _ => (0xFFFFC000, 0)
  | .sizeMb _ _ => (0xFFFF0000, 0)
  | .sizePx _ _ => (0xF00FF00F, 0)
  | .picHdr _ => (0, 0)
  | .prime => (0xFFFFFFFF, Config.primeValue)
  | .fwdLuma _ => (0, 0)
  | .fwdChroma _ => (0, 0)
  | .bwdLuma _ => (0, 0)
  | .bwdChroma _ => (0, 0)
  | .recLuma _ => (0, 0)
  | .recChroma _ => (0, 0)
  | .rotLuma _ => (0, 0)
  | .rotChroma _ => (0, 0)
  | .vldOffset _ => (0x00000007, 0)
  | .vldLen _ => (0x00000007, 0)
  | .vldEnd _ => (0, 0)
  | .vldAddr _ => (0, 0)
  | .trigger p => (0xFFFFFFFF, triggerWord p)
  | .wait _ => (0, 0)
  | .statusClear => (0xFFFFFFFF, Config.statusClearValue)
  | .modeExit _ => (0x0000000F, zext32 Config.modeIdle)

/-- The word of a well-formed operation belongs to its row. -/
def Statement (i : Instr) : Prop :=
  i.wf = true → ∀ w, dataWord i = some w → w &&& (row i).1 = (row i).2

/-- A word whose low bits are extracted as zero has each of them zero. -/
theorem low_of_extract {n : Nat} {w : Word} (h : w.extractLsb' 0 n = 0) (k : Nat) (hk : k < n)
    (hk' : k < 32) : w[k] = false := by
  have := congrArg (fun x => x.getLsbD k) h
  simpa [hk, BitVec.getLsbD_eq_getElem hk'] using this

theorem scQualifying (m : Byte) : Statement (.scQualifying m) := by
  rintro - w ⟨⟩
  ext i hi
  interval_cases i <;> simp [row, startCodeWord]

theorem scNonqualifying (m : Byte) : Statement (.scNonqualifying m) := by
  rintro - w ⟨⟩
  ext i hi
  interval_cases i <;> simp [row, startCodeWord]

theorem modeEnter (r : Word) : Statement (.modeEnter r) := by
  rintro - w ⟨⟩
  ext i hi
  interval_cases i <;> simp [row, modeWord]

/-- The tag of an intra entry is a one above its index (R72). -/
theorem intraTag_eq (i : BitVec 6) : intraTag i = 1#1 ++ i := by
  revert i
  decide

theorem iqIntra (i : BitVec 6) (v : Byte) : Statement (.iqIntra i v) := by
  rintro - w ⟨⟩
  rw [intraTag_eq]
  ext k hk
  interval_cases k <;> simp [row, iqWord]
  rw [BitVec.getElem_append]
  simp

theorem iqNonintra (i : BitVec 6) (v : Byte) : Statement (.iqNonintra i v) := by
  rintro - w ⟨⟩
  ext k hk
  interval_cases k <;> simp [row, iqWord, nonIntraTag]

theorem sizeMb (w h : BitVec 8) : Statement (.sizeMb w h) := by
  rintro - x ⟨⟩
  ext k hk
  interval_cases k <;> simp [row, szmbWord]

theorem sizePx (w h : BitVec 12) : Statement (.sizePx w h) := by
  rintro hwf x ⟨⟩
  simp only [Instr.wf, Bool.and_eq_true, decide_eq_true_eq] at hwf
  have hw := fun k => congrArg (fun x : BitVec 4 => x.getLsbD k) hwf.1
  have hh := fun k => congrArg (fun x : BitVec 4 => x.getLsbD k) hwf.2
  have hw0 := hw 0
  have hw1 := hw 1
  have hw2 := hw 2
  have hw3 := hw 3
  have hh0 := hh 0
  have hh1 := hh 1
  have hh2 := hh 2
  have hh3 := hh 3
  simp at hw0 hw1 hw2 hw3 hh0 hh1 hh2 hh3
  ext k hk
  interval_cases k <;> simp [row, szpxWord, hw0, hw1, hw2, hw3, hh0, hh1, hh2, hh3]

/-- A row with no mask bit holds every word. -/
theorem of_no_mask {i : Instr} (h : row i = (0, 0)) : Statement i := by
  intro _ w _
  rw [h]
  simp

theorem picHdr (h : PicHdr) : Statement (.picHdr h) := of_no_mask rfl

theorem prime : Statement .prime := by
  rintro - w ⟨⟩
  exact BitVec.and_allOnes

theorem fwdLuma (a : Word) : Statement (.fwdLuma a) := of_no_mask rfl
theorem fwdChroma (a : Word) : Statement (.fwdChroma a) := of_no_mask rfl
theorem bwdLuma (a : Word) : Statement (.bwdLuma a) := of_no_mask rfl
theorem bwdChroma (a : Word) : Statement (.bwdChroma a) := of_no_mask rfl
theorem recLuma (a : Word) : Statement (.recLuma a) := of_no_mask rfl
theorem recChroma (a : Word) : Statement (.recChroma a) := of_no_mask rfl
theorem rotLuma (a : Word) : Statement (.rotLuma a) := of_no_mask rfl
theorem rotChroma (a : Word) : Statement (.rotChroma a) := of_no_mask rfl

/-- A word whose low three bits are zero has none of the bits of the window rows' mask. -/
theorem and_seven {w : Word} (h : w.extractLsb' 0 3 = 0) : w &&& 0x00000007#32 = 0 := by
  have h0 := low_of_extract h 0 (by decide) (by decide)
  have h1 := low_of_extract h 1 (by decide) (by decide)
  have h2 := low_of_extract h 2 (by decide) (by decide)
  ext k hk
  interval_cases k <;> simp [h0, h1, h2]

theorem vldOffset (b : Word) : Statement (.vldOffset b) := by
  rintro hwf w ⟨⟩
  exact and_seven (by simpa [Instr.wf] using hwf)

theorem vldLen (b : Word) : Statement (.vldLen b) := by
  rintro hwf w ⟨⟩
  exact and_seven (by simpa [Instr.wf] using hwf)

theorem vldEnd (a : Word) : Statement (.vldEnd a) := of_no_mask rfl
theorem vldAddr (x : Word) : Statement (.vldAddr x) := of_no_mask rfl

theorem trigger (p : Profile) : Statement (.trigger p) := by
  rintro - w ⟨⟩
  exact BitVec.and_allOnes

/-- The wait has no word (R83). -/
theorem wait (n : Nat) : Statement (.wait n) := by
  rintro - w ⟨⟩

theorem statusClear : Statement .statusClear := by
  rintro - w ⟨⟩
  exact BitVec.and_allOnes

theorem modeExit (r : Word) : Statement (.modeExit r) := by
  rintro - w ⟨⟩
  ext i hi
  interval_cases i <;> simp [row, modeWord]

end Sys2Proof.Laws.RowWord
end

