-- ==== Sys2Proof/Tests/Slice0.lean ====
section
/-! SUPPORT. Our own tests: the checks of WellFormed, the decoding of a word of every row, one step of every
operation, and for every obligation with hypotheses a state and operands that meet them together. Names
such as S7, Q1, H1, O2, W5 or D9 are those of spec/95_test_vectors.md, the source of the expected
values. -/

open Sys2Proof Sys2Proof.Machine

/-! ## Helpers -/

/-- The state after an outcome meets a check; a fault or a refusal does not. -/
def Tests.nextMeets (o : Out) (check : State → Bool) : Bool :=
  match o with
  | .next t => check t
  | .fault _ => false
  | .refused _ => false

/-- The reset state, standing at an operation of a transaction of the least request. -/
def Tests.standing (st : SeqState) (step k : Nat) : State :=
  { State.reset with st := st, pc := some ⟨step, k⟩, latch := some Request.least }

/-- The same, with the trace of the operations before that place. -/
def Tests.midway (st : SeqState) (step k : Nat) : State :=
  { Tests.standing st step k with
    trace := (opsBefore Request.least none none 0 0 ⟨step, k⟩).flatMap busEvents
    res := { code := .ok, noStartCode := true, startOffset := 0, info := .none }
    outcome := if step = 12 then some .ok else none }

/-- The reset state in a scan of the least request with its buffer `len` bytes long at address 0. -/
def Tests.scanning (len : Nat) (sc : Scanner) : State :=
  { State.reset with latch := some { Request.least with len := len }, scan := some sc }

/-- The reset state with one coming move of the host. -/
def Tests.asked (m : HostMove) : State := { State.reset with host := [m] }

/-- The reset state with one decode running. -/
def Tests.decoding : State := { State.reset with decodes := 1, running := [1] }

/-! ## WellFormed: an ill-formed term for each check -/

theorem test_wf_qualifying_bounds :
    Instr.wf (.scQualifying 0) = false ∧ Instr.wf (.scQualifying 0xB0) = false ∧
    Instr.wf (.scQualifying 1) = true ∧ Instr.wf (.scQualifying 0xAF) = true := by decide

theorem test_wf_nonqualifying_bounds :
    Instr.wf (.scNonqualifying 1) = false ∧ Instr.wf (.scNonqualifying 0xAF) = false ∧
    Instr.wf (.scNonqualifying 0) = true ∧ Instr.wf (.scNonqualifying 0xB0) = true := by decide

theorem test_wf_size_px_low_bits :
    Instr.wf (.sizePx 0x088 0x050) = false ∧ Instr.wf (.sizePx 0x080 0x051) = false ∧
    Instr.wf (.sizePx 0x080 0x050) = true := by decide

theorem test_wf_vld_offset_low_bits :
    Instr.wf (.vldOffset 0x31) = false ∧ Instr.wf (.vldOffset 0x34) = false ∧
    Instr.wf (.vldOffset 0x30) = true := by decide

theorem test_wf_vld_len_low_bits :
    Instr.wf (.vldLen 0x2A) = false ∧ Instr.wf (.vldLen 0x28) = true := by decide

theorem test_wf_wait_count : Instr.wf (.wait 0) = false ∧ Instr.wf (.wait 2) = false := by decide

/-- X4 and Z11. -/
theorem test_wf_request_width :
    Request.wf { Request.least with width := 0 } = false ∧
    Request.wf { Request.least with width := 4081 } = false := by
  constructor <;> simp [Request.wf]

/-- X5. -/
theorem test_wf_request_height :
    Request.wf { Request.least with height := 0 } = false ∧
    Request.wf { Request.least with height := 4081 } = false := by
  constructor <;> simp [Request.wf]

/-- X6. -/
theorem test_wf_request_len :
    Request.wf { Request.least with len := Config.vbvCapacity + 1 } = false := by
  simp [Request.wf]

/-- X8, for the buffer and for each plane of the output. -/
theorem test_wf_request_translatable (h : Config.paDefined 7 = false) :
    Request.wf { Request.least with bufVa := 7 } = false ∧
    Request.wf { Request.least with output := ⟨7, 0⟩ } = false ∧
    Request.wf { Request.least with output := ⟨3, 4⟩ } = false := by
  simp [Request.wf, Surface.translatable, h]

/-- A reference that resolves to a surface with no translation, forward and backward. -/
theorem test_wf_request_references (h : Config.paDefined 7 = false)
    (h2 : Config.resolve 5 = some ⟨7, 0⟩) :
    Request.wf { Request.least with forwardRef := some 5 } = false ∧
    Request.wf { Request.least with backwardRef := some 5 } = false := by
  simp [Request.wf, refTranslatable, Surface.translatable, h, h2]

/-- The least request is accepted where `PA` is defined at its one address. -/
theorem test_wf_request_least (h : Config.paDefined 0 = true) : Request.least.wf = true := by
  simp [Request.wf, Request.least, refTranslatable, Surface.translatable, h]

/-! ## Decode: a word of every row, written out from its encoding -/

theorem test_decode_sc_qualifying :
    decode (.window 0x00000105) = .ok (.scQualifying 0x05) := by decide

theorem test_decode_sc_nonqualifying :
    decode (.window 0x000001B3) = .ok (.scNonqualifying 0xB3) := by decide

/-- O1, D10. -/
theorem test_decode_mode_enter :
    decode (.rmw false (Config.offset .mode) 0x00130007 0x00130000) = .ok (.modeEnter 0x00130007) := by
  rw [decode_rmw_mode]; decide

/-- Q2. -/
theorem test_decode_iq_intra :
    decode (.write (Config.offset .iq) 0x00007F53) = .ok (.iqIntra 63 0x53) := by
  rw [decode_write_offset]; decide

/-- Q8. -/
theorem test_decode_iq_nonintra :
    decode (.write (Config.offset .iq) 0x00003FFF) = .ok (.iqNonintra 63 0xFF) := by
  rw [decode_write_offset]; decide

/-- Z6. -/
theorem test_decode_size_mb :
    decode (.write (Config.offset .mbSize) 0x00002D1E) = .ok (.sizeMb 45 30) := by
  rw [decode_write_offset]; decide

/-- Z6. -/
theorem test_decode_size_px :
    decode (.write (Config.offset .frameSize) 0x02D001E0) = .ok (.sizePx 720 480) := by
  rw [decode_write_offset]; decide

/-- H8 and H9. -/
theorem test_decode_pic_hdr :
    decode (.write (Config.offset .picHdr) 0x3223374C) =
      .ok (.picHdr ⟨3, 2, 2, 3, 3, 1, 3, 0, 1, 0, 0, 1, 1, 0, 0⟩) ∧
    decode (.write (Config.offset .picHdr) 0x3FFFF215) =
      .ok (.picHdr ⟨3, 15, 15, 15, 15, 0, 2, 0, 0, 0, 1, 0, 1, 0, 1⟩) := by
  rw [decode_write_offset, decode_write_offset]; decide

/-- O22. -/
theorem test_decode_prime :
    decode (.write (Config.offset .prime) Config.primeValue) = .ok .prime := by simp [decodeWrite]

/-- O8. -/
theorem test_decode_forward :
    decode (.write (Config.offset .fwdLuma) 0x41000000) = .ok (.fwdLuma 0x41000000) ∧
    decode (.write (Config.offset .fwdChroma) 0x41025800) = .ok (.fwdChroma 0x41025800) := by
  rw [decode_write_offset, decode_write_offset]; decide

/-- O9. -/
theorem test_decode_backward :
    decode (.write (Config.offset .bwdLuma) 0x42000000) = .ok (.bwdLuma 0x42000000) ∧
    decode (.write (Config.offset .bwdChroma) 0x42025800) = .ok (.bwdChroma 0x42025800) := by
  rw [decode_write_offset, decode_write_offset]; decide

/-- O10. -/
theorem test_decode_output :
    decode (.write (Config.offset .recLuma) 0x40000000) = .ok (.recLuma 0x40000000) ∧
    decode (.write (Config.offset .recChroma) 0x40025800) = .ok (.recChroma 0x40025800) ∧
    decode (.write (Config.offset .rotLuma) 0x40000000) = .ok (.rotLuma 0x40000000) ∧
    decode (.write (Config.offset .rotChroma) 0x40025800) = .ok (.rotChroma 0x40025800) := by
  simp only [decode_write_offset]; decide

/-- O13, O16, O20. -/
theorem test_decode_window :
    decode (.write (Config.offset .vldOffset) 0x00000030) = .ok (.vldOffset 0x30) ∧
    decode (.write (Config.offset .vldLen) 0x00000028) = .ok (.vldLen 0x28) ∧
    decode (.write (Config.offset .vldEnd) 0x430FFFFF) = .ok (.vldEnd 0x430FFFFF) ∧
    decode (.write (Config.offset .vldAddr) 0x43000000) = .ok (.vldAddr 0x43000000) := by
  simp only [decode_write_offset]; decide

/-- O21. -/
theorem test_decode_trigger :
    decode (.write (Config.offset .trigger) Config.triggerMpeg1) = .ok (.trigger .mpeg1) ∧
    decode (.write (Config.offset .trigger) Config.triggerMpeg2) = .ok (.trigger .mpeg2) := by
  simp [decodeWrite, Config.trigger_ne]

theorem test_decode_wait : decode (.wait 1) = .ok (.wait 1) ∧ decode (.wait 2) = .error .wrongCount := by
  decide

/-- O23. -/
theorem test_decode_status_clear :
    decode (.write (Config.offset .status) Config.statusClearValue) = .ok .statusClear := by
  simp [decodeWrite]

/-- O6 and D11: the mode bits are replaced, whatever `MODE_IDLE` is. -/
theorem test_decode_mode_exit :
    decode (.rmw true (Config.offset .mode) 0x0000000A (zext32 Config.modeIdle)) =
      .ok (.modeExit 0x0000000A) := by
  rw [decode_rmw_mode]; simp [decodeMode, modeWord]

/-- What is no DFE event is rejected by its name: a read-modify-write of another register, a plain write
of `REG_MODE`, a mode word that changes a kept bit. -/
theorem test_decode_rejects :
    decode (.rmw false (Config.offset .iq) 0 0) = .error .wrongKind ∧
    decode (.write (Config.offset .mode) 0) = .error .wrongKind ∧
    decode (.rmw false (Config.offset .mode) 0x00130007 0x00120000) = .error .notModeWord := by
  refine ⟨by simp [decode], ?_, ?_⟩
  · rw [decode_write_offset]; decide
  · rw [decode_rmw_mode]; decide

/-- A read that no write at the same register follows is no DFE event. -/
theorem test_decode_trace_lone_read :
    decodeTrace [.read (Config.offset .mode) 0] = .error .wrongKind ∧
    decodeTrace [.read (Config.offset .mode) 0, .wait 1] = .error .wrongKind := by
  exact ⟨rfl, rfl⟩

/-- D13, and a whole trace's first events: order is part of decoding. -/
theorem test_decode_trace_order :
    decodeTrace [.wait 1] = .error .wrongOrder ∧ decodeTrace [] = .ok [] ∧
    decodeTrace [.read (Config.offset .mode) 0x00130007, .write (Config.offset .mode) 0x00130000] =
      .ok [.modeEnter 0x00130007] := by
  refine ⟨by decide, by decide, ?_⟩
  have h : decodeMode false 0x00130007 0x00130000 = .ok (.modeEnter 0x00130007) := by decide
  simp only [decodeTrace, decodeEvents, if_true, Bool.not_true, decode_rmw_mode, h]
  decide

/-- P1's header word before the OR, and Z1, as the encoder makes them from a request. -/
theorem test_encoder_words :
    szmb 123 77 = 0x00000805 ∧ szpx 123 77 = 0x00800050 ∧ szmb 4080 4080 = 0x0000FFFF ∧
    szpx 4080 4080 = 0x0FF00FF0 ∧ szpx 17 33 = 0x00200030 ∧
    PicHdr.word ⟨1, 15, 15, 15, 15, 0, 0, 0, 0, 0, 0, 0, 0, 0, 0⟩ = 0x1FFFF000 ∧
    PicHdr.word ⟨2, 1, 1, 15, 15, 0, 3, 1, 1, 0, 1, 1, 0, 0, 0⟩ = 0x211FF3D8 := by decide

/-! ## The scanner -/

/-- S2, S5, S7, S11, S12 and S16. -/
theorem test_scan_vectors :
    scanBytes [0, 0, 1] = (0, false) ∧
    scanBytes [0, 0, 0, 1, 1, 0x12] = (1, true) ∧
    scanBytes [0, 0, 1, 0xB3, 0x14, 0, 0, 0, 1, 1, 0x22] = (6, true) ∧
    scanBytes [0, 0, 1, 0, 0, 1, 5] = (3, true) ∧
    scanBytes [0x11, 0, 0, 1] = (0, false) ∧
    scanBytes [0, 0, 2, 1, 0, 0, 1, 0x30] = (4, true) := by decide

/-- The first code of S7: the scan stands at the marker and goes on there with a zero count of 0. -/
theorem test_exec_sc_nonqualifying :
    Tests.nextMeets (exec (.scNonqualifying 0xB3) (Tests.scanning 11 ⟨3, 2, true⟩))
      (fun t => decide (t.scan = some ⟨3, 0, false⟩ ∧ t.st = .idle)) = true := by decide

/-- The second code of S7: its marker is at 9, so the offset is 6. -/
theorem test_exec_sc_qualifying :
    Tests.nextMeets (exec (.scQualifying 1) (Tests.scanning 11 ⟨9, 2, true⟩))
      (fun t => decide (t.res.startOffset = 6 ∧ t.res.noStartCode = false ∧ t.pc = some ⟨1, 0⟩)) = true := by
  decide

/-- With no scan in progress the two operations are refused by name. -/
theorem test_exec_sc_no_scan :
    exec (.scQualifying 1) State.reset = .refused .noScanInProgress ∧
    exec (.scNonqualifying 0) State.reset = .refused .noScanInProgress := ⟨rfl, rfl⟩

/-! ## One step of every operation -/

/-- O2. -/
theorem test_exec_mode_enter :
    Tests.nextMeets (exec (.modeEnter 0xFFFFFFFF) (Tests.standing .configuring 1 0))
      (fun t => decide (t.reg .mode = some 0xFFFFFFF0 ∧ t.pc = some ⟨2, 0⟩ ∧
        t.trace = [.read .mode 0xFFFFFFFF, .write .mode 0xFFFFFFF0])) = true := by decide

/-- Q2. -/
theorem test_exec_iq_intra :
    ∃ t, exec (.iqIntra 63 0x53) (Tests.standing .configuring 2 63) = .next t ∧
      t.reg .iq = some 0x00007F53 ∧ t.pc = some ⟨2, 64⟩ ∧ t.qt[127] = 0x53 ∧ t.qt[63] = Config.qtReset 0 63 :=
  ⟨_, rfl, by decide, rfl, by decide, rfl⟩

/-- Q8: the last place of step 2. -/
theorem test_exec_iq_nonintra :
    ∃ t, exec (.iqNonintra 63 0xFF) (Tests.standing .configuring 2 127) = .next t ∧
      t.reg .iq = some 0x00003FFF ∧ t.pc = some ⟨3, 0⟩ ∧ t.qt[63] = 0xFF ∧
      t.qt[127] = Config.qtReset 0 127 :=
  ⟨_, rfl, by decide, rfl, by decide, rfl⟩

/-- Z7. -/
theorem test_exec_sizes :
    Tests.nextMeets (exec (.sizeMb 45 36) State.reset)
      (fun t => decide (t.reg .mbSize = some 0x00002D24 ∧ t.reg .frameSize = none)) = true ∧
    Tests.nextMeets (exec (.sizePx 720 576) State.reset)
      (fun t => decide (t.reg .frameSize = some 0x02D00240 ∧ t.reg .mbSize = none)) = true := by decide

/-- H2. -/
theorem test_exec_pic_hdr :
    Tests.nextMeets (exec (.picHdr ⟨3, 2, 3, 4, 5, 2, 1, 0, 0, 1, 0, 0, 1, 0, 0⟩) State.reset)
      (fun t => decide (t.reg .picHdr = some 0x32345924 ∧ t.reg .prime = none)) = true := by decide

/-- O22, and that step 6 is passed over where no reference is held. -/
theorem test_exec_prime :
    ∃ t, exec .prime (Tests.standing .configuring 5 0) = .next t ∧
      t.reg .prime = some Config.primeValue ∧ t.pc = some ⟨7, 0⟩ := ⟨_, rfl, rfl, rfl⟩

/-- O8. -/
theorem test_exec_forward :
    Tests.nextMeets (exec (.fwdLuma 0x41000000) State.reset)
      (fun t => decide (t.reg .fwdLuma = some 0x41000000 ∧ t.reg .bwdLuma = none)) = true ∧
    Tests.nextMeets (exec (.fwdChroma 0x41025800) State.reset)
      (fun t => decide (t.reg .fwdChroma = some 0x41025800 ∧ t.reg .fwdLuma = none)) = true := by decide

/-- O9. -/
theorem test_exec_backward :
    Tests.nextMeets (exec (.bwdLuma 0x42000000) State.reset)
      (fun t => decide (t.reg .bwdLuma = some 0x42000000 ∧ t.reg .fwdLuma = none)) = true ∧
    Tests.nextMeets (exec (.bwdChroma 0x42025800) State.reset)
      (fun t => decide (t.reg .bwdChroma = some 0x42025800 ∧ t.reg .bwdLuma = none)) = true := by decide

/-- O10, the reconstruction pair. -/
theorem test_exec_reconstruction :
    Tests.nextMeets (exec (.recLuma 0x40000000) State.reset)
      (fun t => decide (t.reg .recLuma = some 0x40000000 ∧ t.reg .rotLuma = none)) = true ∧
    Tests.nextMeets (exec (.recChroma 0x40025800) State.reset)
      (fun t => decide (t.reg .recChroma = some 0x40025800 ∧ t.reg .rotChroma = none)) = true := by decide

/-- O10, the rotation pair. -/
theorem test_exec_rotation :
    Tests.nextMeets (exec (.rotLuma 0x40000000) State.reset)
      (fun t => decide (t.reg .rotLuma = some 0x40000000 ∧ t.reg .recLuma = none)) = true ∧
    Tests.nextMeets (exec (.rotChroma 0x40025800) State.reset)
      (fun t => decide (t.reg .rotChroma = some 0x40025800 ∧ t.reg .recChroma = none)) = true := by decide

/-- O13. -/
theorem test_exec_window_place :
    Tests.nextMeets (exec (.vldOffset 0x30) State.reset)
      (fun t => decide (t.reg .vldOffset = some 0x30 ∧ t.reg .vldLen = none)) = true ∧
    Tests.nextMeets (exec (.vldLen 0x28) State.reset)
      (fun t => decide (t.reg .vldLen = some 0x28 ∧ t.reg .vldOffset = none)) = true := by decide

/-- O16 and the last place of step 8. -/
theorem test_exec_window_addresses :
    Tests.nextMeets (exec (.vldEnd 0x430FFFFF) State.reset)
      (fun t => decide (t.reg .vldEnd = some 0x430FFFFF ∧ t.reg .vldAddr = none)) = true ∧
    Tests.nextMeets (exec (.vldAddr 0x43000000) (Tests.standing .configuring 8 3))
      (fun t => decide (t.reg .vldAddr = some 0x43000000 ∧ t.pc = some ⟨9, 0⟩)) = true := by decide

/-- O21. -/
theorem test_exec_trigger :
    ∃ t, exec (.trigger .mpeg1) (Tests.standing .configuring 9 0) = .next t ∧
      t.reg .trigger = some Config.triggerMpeg1 ∧ t.st = .triggered ∧ t.running = [1] ∧
      t.pc = some ⟨10, 0⟩ := ⟨_, rfl, rfl, rfl, rfl, rfl⟩

/-- W7. -/
theorem test_exec_wait_done :
    Tests.nextMeets (exec (.wait 1) { Tests.standing .triggered 10 0 with pending := 2 })
      (fun t => decide (t.pending = 1 ∧ t.outcome = some .ok ∧ t.st = .awaitingCompletion ∧
        t.pc = some ⟨11, 0⟩ ∧ t.trace = [.wait 1])) = true := by decide

/-- W2: the DFE holds, in a next state. -/
theorem test_exec_wait_holds :
    Tests.nextMeets (exec (.wait 1) (Tests.standing .triggered 10 0))
      (fun t => decide (t.pending = 0 ∧ t.outcome = none ∧ t.st = .awaitingCompletion ∧
        t.pc = some ⟨10, 0⟩ ∧ t.trace = [.wait 1])) = true := by decide

/-- O23: the clear is on the bus, and `REG_STATUS` stays unknown. -/
theorem test_exec_status_clear :
    ∃ t, exec .statusClear (Tests.standing .awaitingCompletion 11 0) = .next t ∧
      t.trace = [.write .status Config.statusClearValue] ∧ t.reg .status = none ∧
      t.st = .completing ∧ t.pc = some ⟨12, 0⟩ := ⟨_, rfl, rfl, rfl, rfl, rfl⟩

/-- O5, with the outcome of W4: the decode runs on, and R242 notes it. -/
theorem test_exec_mode_exit :
    ∃ t, exec (.modeExit 0xFFFFFFF0)
        { Tests.standing .completing 12 0 with outcome := some .timeout, decodes := 1, running := [1] } =
        .next t ∧ t.reg .mode = some (0xFFFFFFF0 ||| zext32 Config.modeIdle) ∧
      t.res.code = .hwTimeout ∧ t.st = .idle ∧ t.latch = none ∧ t.leftover = true :=
  ⟨_, rfl, rfl, rfl, rfl, rfl, rfl⟩

/-- R242: a timeout after the transaction's own completion (W5) leaves no engine work over. -/
theorem test_clean_timeout :
    ∃ t, exec (.modeExit 0)
        { Tests.standing .completing 12 0 with outcome := some .timeout, decodes := 1, pending := 1 } =
        .next t ∧ t.res.code = .hwTimeout ∧ t.leftover = false := ⟨_, rfl, rfl, rfl⟩

/-- R21, R61: a completion event or a pixel before any trigger has no effect; after one, the decode raises
one event and then stores nothing more. -/
theorem test_env_turn :
    (State.envTurn { State.reset with env := [[.completes 1, .storesPixel 4 7], []] }).pending = 0 ∧
    (State.envTurn { State.reset with env := [[.storesPixel 4 7]] }).mem = [] ∧
    (Tests.decoding.envMoves [.storesPixel 4 7, .completes 1, .storesPixel 5 8, .completes 1]).mem = [(4, 7)] ∧
    (Tests.decoding.envMoves [.storesPixel 4 7, .completes 1, .storesPixel 5 8, .completes 1]).pending = 1 := by
  decide

/-! ## Memory and the table-word interface -/

/-- A write of what an unlisted byte reads as takes the entry out; entries stand in rising order. -/
theorem test_memory_canonical :
    Memory.write (Memory.write [] 9 5) 4 6 = [(4, 6), (9, 5)] ∧
    Memory.write [(4, 6), (9, 5)] 9 0 = [(4, 6)] ∧ Memory.read [(4, 6), (9, 5)] 9 = 5 ∧
    Memory.read [(4, 6), (9, 5)] 5 = 0 := by decide

/-- A placed table word runs as the next step. -/
theorem test_place_start_code :
    Tests.nextMeets (step (State.reset.withFetchWord 32 0x00000105))
      (fun t => decide (t.res.startOffset = 0 ∧ t.res.noStartCode = false ∧ t.st = .configuring)) = true := by
  decide

theorem test_place_size_px :
    Tests.nextMeets (step (State.reset.withFetchWord 32 0x02D001E0))
      (fun t => decide (t.reg .frameSize = some 0x02D001E0)) = true := by decide

/-! ## Witnesses: the hypotheses of every obligation that has some are met together -/

/-- StepRunsDecodedOperation: in a transaction, and in a scan that stands at a marker. -/
theorem witness_StepRunsDecodedOperation :
    ((Tests.standing .configuring 5 0).envTurn.st ≠ .idle ∧
      (Tests.standing .configuring 5 0).envTurn.issue = some .prime) ∧
    (let s := State.reset.standAtCode Request.least 5
     s.envTurn.st = .idle ∧ s.envTurn.latch = some { Request.least with len := 4 } ∧
      s.envTurn.scan = some ⟨3, 2, true⟩ ∧
      codeWindow s.envTurn.mem { Request.least with len := 4 } 3 = .ok 0x00000105 ∧
      decode (.window 0x00000105) = .ok (.scQualifying 5)) := by decide

/-- DecodedWordsMatchVectors, last clause: an offset that is no multiple of 4 is no register's. -/
theorem witness_DecodedWordsMatchVectors : ∀ r, Config.offset r ≠ 1#32 := by
  intro r h
  have h2 := congrArg BitVec.toNat h
  rw [Config.offset_toNat, show (1#32).toNat = 1 from rfl] at h2
  omega

theorem witness_DecodeEncodeRoundTrip :
    Instr.wf (.sizePx 0xFF0 0x010) = true ∧ Instr.wf (.wait Config.waitCount) = true := by decide

theorem witness_DecodedEventIsEncoded : decode (.window 0x000001FF) = .ok (.scNonqualifying 0xFF) := by
  decide

/-- ProgramHasDfeOrder: a trace whose one event is the DFE's and out of order, and one that is accepted. -/
theorem witness_ProgramHasDfeOrder :
    decodeEvents true [.wait 1] = .ok [.wait 1] ∧ isDfeOrder [.wait 1] = false ∧
    decodeTrace [] = .ok [] := by decide

theorem witness_IssuedOperationsWellFormed :
    (Tests.standing .configuring 5 0).activity = .instr .prime ∧
    (State.reset.standAtCode Request.least 0xB0).activity = .instr (.scNonqualifying 0xB0) :=
  ⟨rfl, rfl⟩

theorem witness_PlacedTableWordRunsFirst :
    decodeTableWord 32 0x00003F10 = some (.iqNonintra 63 0x10) ∧
    decodeTableWord 32 0xFFFFFFFF = some (.picHdr ⟨15, 15, 15, 15, 15, 3, 3, 1, 1, 1, 1, 1, 1, 1, 1⟩) := by
  decide

/-- QtabTagsInOrder: the words at the ends of both matrices. -/
theorem witness_QtabTagsInOrder :
    (qtab (Vector.replicate 64 8) (Vector.replicate 64 16))[0]? = some 0x00004008 ∧
    (qtab (Vector.replicate 64 8) (Vector.replicate 64 16))[63]? = some 0x00007F08 ∧
    (qtab (Vector.replicate 64 8) (Vector.replicate 64 16))[64]? = some 0x00000010 ∧
    (qtab (Vector.replicate 64 8) (Vector.replicate 64 16))[127]? = some 0x00003F10 :=
  ⟨rfl, rfl, rfl, rfl⟩

/-- SizeWordsKeepFieldsApart and ProgramEventsAreRuleWords: both ends of the accepted range. -/
theorem witness_accepted_sizes :
    (1 ≤ Request.least.width ∧ Request.least.width ≤ 4080 ∧ 1 ≤ Request.least.height ∧
      Request.least.height ≤ 4080) ∧ mbCount 1 = 1 ∧ mbCount 4080 = 255 := by decide

/-- WindowWordsExact: the longest buffer, with the offset at both ends. -/
theorem witness_WindowWordsExact :
    ∃ q : Request, q.len ≤ Config.vbvCapacity ∧ q.len = Config.vbvCapacity ∧ 0 ≤ q.len ∧ q.len ≤ q.len :=
  ⟨{ Request.least with len := Config.vbvCapacity }, Nat.le_refl _, rfl, Nat.zero_le _, Nat.le_refl _⟩

/-- WaitConsumesCompletion: exactly as many events as the wait expects. -/
theorem witness_WaitConsumesCompletion :
    1 ≤ ({ Tests.standing .triggered 10 0 with pending := 1 } : State).pending ∧
    ({ Tests.standing .triggered 10 0 with pending := 1 } : State).timeoutEvent = false := by decide

/-- WaitTimesOutOrHolds: one event too few, with a timeout event and without. -/
theorem witness_WaitTimesOutOrHolds :
    (Tests.standing .triggered 10 0).pending < 1 ∧
    (Tests.standing .triggered 10 0).timeoutEvent = false ∧
    ({ Tests.standing .triggered 10 0 with timeoutEvent := true } : State).pending < 1 := by decide

theorem witness_WaitWithBothEndsEitherWay :
    1 ≤ ({ Tests.standing .triggered 10 0 with pending := 1, timeoutEvent := true } : State).pending ∧
    ({ Tests.standing .triggered 10 0 with pending := 1, timeoutEvent := true } : State).timeoutEvent =
      true := by decide

/-- QualifyingCodeEndsScan and NonqualifyingCodeResumesAtMarker: the least place of a marker. -/
theorem witness_scan_at_marker :
    (Tests.scanning 4 ⟨3, 2, true⟩).scan = some ⟨3, 2, true⟩ ∧ 3 ≤ (⟨3, 2, true⟩ : Scanner).i := by decide

/-- StepWritesMatrixEntries: the first and the last place of each matrix. -/
theorem witness_StepWritesMatrixEntries (k : Nat) (_ : k = 0 ∨ k = 63 ∨ k = 64 ∨ k = 127) :
    (Tests.standing .configuring 2 k).st = .configuring ∧
    (Tests.standing .configuring 2 k).latch = some Request.least ∧
    (Tests.standing .configuring 2 k).pc = some ⟨2, k⟩ := ⟨rfl, rfl, rfl⟩

/-- StepWritesSizesHeaderPriming: each of the four places, with the least sizes. -/
theorem witness_StepWritesSizesHeaderPriming (p : Pc)
    (_ : p ∈ [⟨3, 0⟩, ⟨3, 1⟩, ⟨4, 0⟩, (⟨5, 0⟩ : Pc)]) :
    (Tests.standing .configuring p.step p.k).st = .configuring ∧
    (Tests.standing .configuring p.step p.k).latch = some Request.least ∧
    (Tests.standing .configuring p.step p.k).pc = some p ∧
    1 ≤ Request.least.width ∧ Request.least.width ≤ 4080 ∧
    1 ≤ Request.least.height ∧ Request.least.height ≤ 4080 :=
  ⟨rfl, rfl, rfl, by decide, by decide, by decide, by decide⟩

/-- StepWritesPresentReferences: both references, at each of the four places; and the backward one alone,
at its two. -/
theorem witness_StepWritesPresentReferences (k : Nat) (_ : k < 4) :
    (∃ s : State, s.st = .configuring ∧ s.latch = some Request.least ∧ s.fwd = some ⟨64, 64⟩ ∧
      s.bwd = some ⟨256, 64⟩ ∧ s.pc = some ⟨6, k⟩) ∧
    (∃ s : State, s.st = .configuring ∧ s.latch = some Request.least ∧ s.fwd = none ∧
      s.bwd = some ⟨256, 64⟩ ∧ s.pc = some ⟨6, k % 2⟩) :=
  ⟨⟨{ Tests.standing .configuring 6 k with fwd := some ⟨64, 64⟩, bwd := some ⟨256, 64⟩ },
    rfl, rfl, rfl, rfl, rfl⟩,
   ⟨{ Tests.standing .configuring 6 (k % 2) with bwd := some ⟨256, 64⟩ }, rfl, rfl, rfl, rfl, rfl⟩⟩

/-- StepWritesOutputSurface and StepWritesBitstreamWindow: each of the four places of steps 7 and 8. -/
theorem witness_StepWritesSurfaceAndWindow (step k : Nat) (_ : step = 7 ∨ step = 8) (_ : k < 4) :
    (Tests.standing .configuring step k).st = .configuring ∧
    (Tests.standing .configuring step k).latch = some Request.least ∧
    (Tests.standing .configuring step k).pc = some ⟨step, k⟩ := ⟨rfl, rfl, rfl⟩

/-- StepEntersTriggersAcknowledgesExits: each of the five places. -/
theorem witness_StepEntersTriggersAcknowledgesExits (step : Nat) (_ : step ∈ [1, 9, 10, 11, 12]) :
    (Tests.standing .triggered step 0).st ≠ .idle ∧
    (Tests.standing .triggered step 0).latch = some Request.least ∧
    (Tests.standing .triggered step 0).pc = some ⟨step, 0⟩ := ⟨nofun, rfl, rfl⟩

/-- ScanResultBounds: found and not found. -/
theorem witness_ScanResultBounds :
    scanBytes [0, 0, 1, 5] = (0, true) ∧ scanBytes [0, 0, 0, 0] = (0, false) := by decide

/-- ScanPassLooksAtOneByte: the first byte of a buffer of one. -/
theorem witness_ScanPassLooksAtOneByte :
    (Tests.scanning 1 Scanner.start).st = .idle ∧
    (Tests.scanning 1 Scanner.start).latch = some { Request.least with len := 1 } ∧
    (Tests.scanning 1 Scanner.start).scan = some Scanner.start ∧ Scanner.start.hit = false ∧
    Scanner.start.i < ({ Request.least with len := 1 } : Request).len := by decide

/-- ScanEndFallsBackToZero: an empty buffer, and a prefix with no marker after it (S2). -/
theorem witness_ScanEndFallsBackToZero :
    ((Tests.scanning 0 Scanner.start).st = .idle ∧
      (Tests.scanning 0 Scanner.start).latch = some { Request.least with len := 0 } ∧
      (Tests.scanning 0 Scanner.start).scan = some Scanner.start ∧ 0 ≤ Scanner.start.i) ∧
    ((Tests.scanning 3 ⟨3, 2, true⟩).st = .idle ∧
      (Tests.scanning 3 ⟨3, 2, true⟩).latch = some { Request.least with len := 3 } ∧
      (Tests.scanning 3 ⟨3, 2, true⟩).scan = some ⟨3, 2, true⟩ ∧ 3 ≤ (⟨3, 2, true⟩ : Scanner).i) := by
  decide

/-- AcceptanceChecksInOrder and OutOfRangeRequestRefused: a request that is refused. -/
theorem witness_AcceptanceChecksInOrder :
    (Tests.asked (.request { Request.least with width := 0 })).st = .idle ∧
    (Tests.asked (.request { Request.least with width := 0 })).latch = none ∧
    (Tests.asked (.request { Request.least with width := 0 })).sessionOpen = true ∧
    (Tests.asked (.request { Request.least with width := 0 })).host =
      [.request { Request.least with width := 0 }] ∧
    Request.wf { Request.least with width := 0 } = false :=
  ⟨rfl, rfl, rfl, rfl, by simp [Request.wf]⟩

/-- AcceptanceChecksInOrder, the other clauses, under the parameter values they need: where `PA` is defined
at 0, a request is latched, and with a handle that does not resolve it raises the error (X1, X2, X3). -/
theorem witness_AcceptanceChecksInOrder_accepted (h : Config.paDefined 0 = true)
    (h2 : Config.resolve 5 = none) :
    (Request.least.wf = true ∧ resolveRef Request.least.forwardRef = some none ∧
      resolveRef Request.least.backwardRef = some none) ∧
    (Request.wf { Request.least with forwardRef := some 5, backwardRef := some 5 } = true ∧
      resolveRef (some 5) = none) ∧
    (Request.wf { Request.least with backwardRef := some 5 } = true) := by
  simp [Request.wf, Request.least, refTranslatable, Surface.translatable, h, resolveRef, h2]

/-- OutOfRangeRequestRefused: each range at its boundary; and, under the parameter values they need, an
address with no translation, and a request that meets every condition. -/
theorem witness_OutOfRangeRequestRefused (q : Request)
    (_ : q ∈ [{ Request.least with width := 0 }, { Request.least with width := 4081 },
      { Request.least with height := 0 }, { Request.least with height := 4081 },
      { Request.least with len := Config.vbvCapacity + 1 }]) :
    ((Tests.asked (.request q)).st = .idle ∧ (Tests.asked (.request q)).latch = none ∧
      (Tests.asked (.request q)).sessionOpen = true ∧ (Tests.asked (.request q)).host = [.request q]) ∧
    (q.width < 1 ∨ 4080 < q.width ∨ q.height < 1 ∨ 4080 < q.height ∨ Config.vbvCapacity < q.len) ∧
    (Config.paDefined 0 = false → translates Request.least 0 ∧ Config.paDefined 0 = false) ∧
    (Config.paDefined 0 = true → ∀ a, translates Request.least a → Config.paDefined a = true) := by
  refine ⟨⟨rfl, rfl, rfl, rfl⟩, ?_, fun h => ⟨.inl rfl, h⟩, fun h a ha => ?_⟩
  · simp only [List.mem_cons, List.not_mem_nil, or_false] at *
    rcases ‹_› with rfl | rfl | rfl | rfl | rfl <;> simp
  · rcases ha with rfl | rfl | rfl | ⟨_, _, h1 | h1, _⟩
    · exact h
    · exact h
    · exact h
    · cases h1
    · cases h1

/-- HostWaitsDuringTransaction: a step in a transaction, and one in a scan. -/
theorem witness_HostWaitsDuringTransaction :
    (∃ t, step (Tests.standing .configuring 5 0) = .next t ∧
      (Tests.standing .configuring 5 0).st ≠ .idle) ∧
    (∃ t, step (Tests.scanning 0 Scanner.start) = .next t ∧
      (Tests.scanning 0 Scanner.start).latch ≠ none) :=
  ⟨⟨_, rfl, by decide⟩, ⟨_, rfl, by decide⟩⟩

/-- BufferStableDuringTransaction: a step with a pixel store beside a latched buffer of four bytes. -/
theorem witness_BufferStableDuringTransaction :
    ∃ t, step { Tests.standing .configuring 5 0 with
        latch := some { Request.least with len := 4 }, running := [1], env := [[.storesPixel 4 7]] } =
      .next t ∧ Memory.read t.mem 4 = 7 := ⟨_, rfl, by decide⟩

/-- ResultReadableAfterEnd: before and after the end of a transaction. -/
theorem witness_ResultReadableAfterEnd (b : Bool) :
    ({ Tests.asked .readResult with resValid := b } : State).st = .idle ∧
    ({ Tests.asked .readResult with resValid := b } : State).latch = none ∧
    ({ Tests.asked .readResult with resValid := b } : State).host = [.readResult] := ⟨rfl, rfl, rfl⟩

/-- SessionEndsAndStarts: each clause. -/
theorem witness_SessionEndsAndStarts :
    ((Tests.asked .teardown).st = .idle ∧ (Tests.asked .teardown).latch = none ∧
      (Tests.asked .teardown).host = [.teardown]) ∧
    (({ Tests.asked (.request Request.least) with sessionOpen := false } : State).sessionOpen = false ∧
      ({ Tests.asked (.request Request.least) with sessionOpen := false } : State).host =
        [.request Request.least]) ∧
    ((Tests.asked .sessionStart).st = .idle ∧ (Tests.asked .sessionStart).host = [.sessionStart]) := by
  decide

/-- OperationsNeverWriteMemory: every family has an operation that answers a next state. -/
theorem witness_OperationsNeverWriteMemory :
    (∃ t, exec (.scNonqualifying 0) (Tests.scanning 4 ⟨3, 2, true⟩) = .next t) ∧
    (∃ t, exec (.modeExit 0) State.reset = .next t) ∧ (∃ t, exec (.trigger .mpeg2) State.reset = .next t) :=
  ⟨⟨_, rfl⟩, ⟨_, rfl⟩, ⟨_, rfl⟩⟩

/-- OnlyWaitConsumesCompletions: a satisfied wait, and a session start. -/
theorem witness_OnlyWaitConsumesCompletions :
    (∃ t, step { Tests.standing .triggered 10 0 with pending := 1 } = .next t ∧
      t.pending < (State.envTurn { Tests.standing .triggered 10 0 with pending := 1 }).pending) ∧
    (∃ t, step { Tests.asked .sessionStart with pending := 1 } = .next t ∧
      t.pending < (State.envTurn { Tests.asked .sessionStart with pending := 1 }).pending) :=
  ⟨⟨_, rfl, by decide⟩, ⟨_, rfl, by decide⟩⟩

/-- AbsentReferenceLeavesRegisters: no forward surface, at the place of step 6 where the backward one is
written, with a session start waiting; no backward one, at the forward one's; and a step at Idle. -/
theorem witness_AbsentReferenceLeavesRegisters :
    (∃ t, step { Tests.standing .configuring 6 0 with bwd := some ⟨0, 64⟩, host := [.sessionStart] } = .next t) ∧
    (∃ t, step { Tests.standing .configuring 6 0 with fwd := some ⟨0, 64⟩ } = .next t) ∧
    (Tests.standing .configuring 6 0).st ≠ .idle ∧
    (∃ t, step (Tests.asked .teardown) = .next t) ∧
    (Tests.asked .teardown).host.head? ≠ some .sessionStart :=
  ⟨⟨_, rfl⟩, ⟨_, rfl⟩, by decide, ⟨_, rfl⟩, by decide⟩

/-- EngineTurnKeepsTransaction: a running decode, a pixel just past a latched buffer of four bytes in
canonical memory, and a step with a timeout event and one without. -/
theorem witness_EngineTurnKeepsTransaction :
    1 ∈ Tests.decoding.running ∧
    (MemInv { Tests.decoding with latch := some { Request.least with len := 4 } } ∧
      Tests.decoding.running ≠ [] ∧ inBuffer (some { Request.least with len := 4 }) 4 = false ∧
      inBuffer (some { Request.least with len := 4 }) 3 = true) ∧
    EnvMove.timeoutFires ∈ ([[.timeoutFires], []] : List (List EnvMove)).headD [] ∧
    EnvMove.timeoutFires ∉ ([[], [.timeoutFires]] : List (List EnvMove)).headD [] := by
  refine ⟨by decide, ⟨rfl, by decide, by decide, by decide⟩, by decide, by decide⟩

/-! ### Witnesses for the invariants -/

/-- StepKeepsMemoryCanonical: a step that stores a byte. -/
theorem witness_StepKeepsMemoryCanonical :
    MemInv (Tests.asked (.store 9 5)) ∧ ∃ t, step (Tests.asked (.store 9 5)) = .next t ∧ t.mem = [(9, 5)] :=
  ⟨rfl, _, rfl, by decide⟩

theorem midway_seqInv_configuring : SeqInv (Tests.midway .configuring 9 0) :=
  ⟨rfl, rfl, rfl, ⟨9, 0⟩, rfl, by decide, by decide, by decide⟩

theorem midway_seqInv_completing : SeqInv (Tests.midway .completing 12 0) := ⟨rfl, rfl, rfl, rfl⟩

theorem midway_traceInv_configuring : TraceInv (Tests.midway .configuring 9 0) := by
  intro q hq
  cases hq
  exact fun p hp => by cases hp; exact ⟨0, by simp [waitMarker, Tests.midway, Tests.standing, State.reset]⟩

theorem midway_traceInv_completing : TraceInv (Tests.midway .completing 12 0) := by
  intro q hq
  cases hq
  exact fun p hp => by cases hp; exact ⟨0, by simp [waitMarker, Tests.midway, Tests.standing, State.reset]⟩

theorem midway_scanInv_completing : ScanInv (Tests.midway .completing 12 0) := by
  intro q hq
  cases hq
  exact .inr ⟨rfl, rfl, fun p => by simp [isCodeAt, bufBytes, Request.least]⟩

/-- StepKeepsSequencerInvariant, StepKeepsTraceInvariant, SequencerStatesInOrder: a step at the trigger, and
the last step of a transaction. -/
theorem witness_StepKeepsTraceInvariant :
    (SeqInv (Tests.midway .configuring 9 0) ∧ TraceInv (Tests.midway .configuring 9 0) ∧
      ∃ t, step (Tests.midway .configuring 9 0) = .next t ∧ t.st = .triggered) ∧
    (SeqInv (Tests.midway .completing 12 0) ∧ TraceInv (Tests.midway .completing 12 0) ∧
      ∃ t, step (Tests.midway .completing 12 0) = .next t ∧ t.st = .idle) :=
  ⟨⟨midway_seqInv_configuring, midway_traceInv_configuring, _, rfl, rfl⟩,
   ⟨midway_seqInv_completing, midway_traceInv_completing, _, rfl, rfl⟩⟩

/-- SequencerStatesInOrder: a state of each of the other three kinds, with its step. -/
theorem witness_SequencerStatesInOrder :
    (SeqInv (Tests.scanning 0 Scanner.start) ∧
      ∃ t, step (Tests.scanning 0 Scanner.start) = .next t ∧ t.st = .configuring) ∧
    (SeqInv (Tests.standing .triggered 10 0) ∧
      ∃ t, step (Tests.standing .triggered 10 0) = .next t ∧ t.st = .awaitingCompletion) ∧
    (SeqInv { Tests.standing .awaitingCompletion 11 0 with outcome := some .ok } ∧
      ∃ t, step { Tests.standing .awaitingCompletion 11 0 with outcome := some .ok } = .next t ∧
        t.st = .completing) :=
  ⟨⟨⟨rfl, rfl, rfl⟩, _, rfl, rfl⟩, ⟨⟨rfl, rfl, rfl, rfl⟩, _, rfl, rfl⟩,
   ⟨⟨rfl, rfl, .inr ⟨rfl, rfl⟩⟩, _, rfl, rfl⟩⟩

/-- StepKeepsLatchInvariant: at Idle; and, where `PA` is defined at 0, with a request. -/
theorem witness_StepKeepsLatchInvariant :
    (LatchInv State.reset ∧ ∃ t, step State.reset = .next t) ∧
    (Config.paDefined 0 = true → LatchInv (Tests.standing .configuring 5 0) ∧
      ∃ t, step (Tests.standing .configuring 5 0) = .next t) := by
  refine ⟨⟨fun q (h : none = some q) => (nomatch h), _, rfl⟩, fun h => ⟨?_, _, rfl⟩⟩
  intro q hq
  cases hq
  exact ⟨test_wf_request_least h, rfl, rfl⟩

theorem scanning_start_scanInv : ScanInv (Tests.scanning 1 Scanner.start) := by
  intro q hq
  cases hq
  intro sc hsc
  cases hsc
  refine ⟨by simp [Scanner.start], by decide, ?_⟩
  exact ⟨by decide, fun j hj => absurd hj (by simp [Scanner.start]), fun p _ => Nat.zero_le p⟩

/-- StepKeepsScanInvariant: a scan of one byte, and a transaction; with the sequencer's fields in
agreement; and the host's two refused moves. -/
theorem witness_StepKeepsScanInvariant :
    (ScanInv (Tests.scanning 1 Scanner.start) ∧ SeqInv (Tests.scanning 1 Scanner.start) ∧
      ∃ t, step (Tests.scanning 1 Scanner.start) = .next t) ∧
    (ScanInv (Tests.midway .completing 12 0) ∧ SeqInv (Tests.midway .completing 12 0) ∧
      ∃ t, step (Tests.midway .completing 12 0) = .next t) ∧
    (SeqInv (Tests.asked .readResult) ∧ ScanInv (Tests.asked .readResult) ∧
      step (Tests.asked .readResult) = .refused .resultNotReady) :=
  ⟨⟨scanning_start_scanInv, ⟨rfl, rfl, rfl⟩, _, rfl⟩,
   ⟨midway_scanInv_completing, midway_seqInv_completing, _, rfl⟩,
   ⟨rfl, rfl, rfl⟩, fun q (h : none = some q) => (nomatch h), rfl⟩

/-- StepKeepsRegisterInvariant: reset, and a register that the trace has written. -/
theorem witness_StepKeepsRegisterInvariant :
    (RegInv State.reset ∧ ∃ t, step State.reset = .next t) ∧
    (RegInv ((Tests.standing .configuring 7 0).regWrite .recLuma 7) ∧
      ∃ t, step ((Tests.standing .configuring 7 0).regWrite .recLuma 7) = .next t) := by
  refine ⟨⟨⟨rfl, fun r v _ (h : none = some v) => (nomatch h)⟩, _, rfl⟩, ⟨rfl, ?_⟩, _, rfl⟩
  intro r v _ h
  cases r <;> first | (cases h; rfl) | nomatch h

/-- ConfigurationPrecedesTrigger. -/
theorem witness_ConfigurationPrecedesTrigger :
    SeqInv (Tests.midway .configuring 9 0) ∧ TraceInv (Tests.midway .configuring 9 0) ∧
    (Tests.midway .configuring 9 0).st ≠ .idle ∧
    (Tests.midway .configuring 9 0).latch = some Request.least ∧
    (Tests.midway .configuring 9 0).envTurn.issue = some (.trigger .mpeg2) :=
  ⟨midway_seqInv_configuring, midway_traceInv_configuring, nofun, rfl, rfl⟩

/-- TraceDeterminedByInputs: two states that differ in what the rule does not name. -/
theorem witness_TraceDeterminedByInputs :
    let s := Tests.midway .completing 12 0
    let s' := { Tests.midway .completing 12 0 with pending := 3, delivered := some State.reset.res }
    SeqInv s ∧ SeqInv s' ∧ TraceInv s ∧ TraceInv s' ∧ s.st = .completing ∧ s'.st = .completing ∧
    s.latch = s'.latch ∧ s.fwd = s'.fwd ∧ s.bwd = s'.bwd ∧ s.res.startOffset = s'.res.startOffset ∧
    s.trace.head? = s'.trace.head? ∧ s.envTurn.modeNext = s'.envTurn.modeNext ∧
    (∃ t, step s = .next t) ∧ ∃ t', step s' = .next t' :=
  ⟨midway_seqInv_completing, midway_seqInv_completing, midway_traceInv_completing,
   midway_traceInv_completing, rfl, rfl, rfl, rfl, rfl, rfl, rfl, rfl, ⟨_, rfl⟩, ⟨_, rfl⟩⟩

/-- PendingCompletionEndsTransaction: a scan at its start, and step 1 with exactly one event pending. -/
theorem witness_PendingCompletionEndsTransaction :
    (SeqInv (Tests.scanning 1 Scanner.start) ∧ ScanInv (Tests.scanning 1 Scanner.start) ∧
      (Tests.scanning 1 Scanner.start).st = .idle ∧
      (Tests.scanning 1 Scanner.start).latch = some { Request.least with len := 1 }) ∧
    (SeqInv { Tests.standing .configuring 1 0 with pending := 1 } ∧
      ({ Tests.standing .configuring 1 0 with pending := 1 } : State).st = .configuring ∧
      ({ Tests.standing .configuring 1 0 with pending := 1 } : State).pc = some ⟨1, 0⟩ ∧
      ({ Tests.standing .configuring 1 0 with pending := 1 } : State).env = [] ∧
      1 ≤ ({ Tests.standing .configuring 1 0 with pending := 1 } : State).pending) :=
  ⟨⟨⟨rfl, rfl, rfl⟩, scanning_start_scanInv, rfl, rfl⟩,
   ⟨rfl, rfl, rfl, ⟨1, 0⟩, rfl, by decide, by decide, by decide⟩, rfl, rfl, rfl, by decide⟩

/-- EndedTransactionIsTheProgram. -/
theorem witness_EndedTransactionIsTheProgram :
    SeqInv (Tests.midway .completing 12 0) ∧ ScanInv (Tests.midway .completing 12 0) ∧
    TraceInv (Tests.midway .completing 12 0) ∧ (Tests.midway .completing 12 0).st = .completing ∧
    (Tests.midway .completing 12 0).latch = some Request.least ∧
    ∃ t, step (Tests.midway .completing 12 0) = .next t :=
  ⟨midway_seqInv_completing, midway_scanInv_completing, midway_traceInv_completing, rfl, rfl, _, rfl⟩

/-- WaitWithoutEventsHoldsForever: with no move left, and with moves that neither complete nor time out; and,
where the parameter allows no timeout, with a timeout event among them. -/
theorem witness_WaitWithoutEventsHoldsForever (env : List (List EnvMove))
    (h : env ∈ [[], [[.modeBecomes 7, .storesPixel 4 7], []], [[.timeoutFires]]]) :
    let s : State := { Tests.standing .awaitingCompletion 10 0 with env := env }
    SeqInv s ∧ s.st = .awaitingCompletion ∧ s.pc = some ⟨10, 0⟩ ∧ s.pending = 0 ∧
    (∀ ms ∈ s.env, ∀ d, EnvMove.completes d ∉ ms) ∧
    (env ≠ [[.timeoutFires]] → ∀ ms ∈ s.env, EnvMove.timeoutFires ∉ ms) := by
  refine ⟨⟨rfl, rfl, .inl ⟨rfl, rfl⟩⟩, rfl, rfl, rfl, ?_⟩
  simp only [List.mem_cons, List.not_mem_nil, or_false] at h
  rcases h with rfl | rfl | rfl <;> simp
end

/-! PROOFS. What one operation does, said once: the inversion of `exec`, and its part of the bus trace and
of the register file. -/

namespace Sys2Proof.Machine

/-- `Ran s i t`: the operation `i` takes the state `s` to `t`. One constructor for each shape of meaning;
the eighteen operations that are a plain register write share `plainWrite`. -/
inductive Ran (s : State) : Instr → State → Prop where
  | codeFound (m : Byte) (sc : Scanner) (hscan : s.scan = some sc) (hi : 3 ≤ sc.i) :
      Ran s (.scQualifying m) (s.finishScan (sc.i - 3) true)
  | codeSkipped (m : Byte) (sc : Scanner) (hscan : s.scan = some sc) :
      Ran s (.scNonqualifying m) { s with scan := some sc.resume }
  | modeEnter (v : Word) : Ran s (.modeEnter v) (s.modeRmw v 0).advance
  | plainWrite (i : Instr) (r : Reg) (v : Word) (hev : busEvents i = [.write r v])
      (htrigger : r ≠ .trigger) (hstatus : r ≠ .status) : Ran s i (s.busWrite r v)
  | trigger (p : Profile) :
      Ran s (.trigger p) { s.busWrite .trigger (triggerWord p) with st := .triggered }
  | waitCompletes (n : Nat) (w : State) (hw : w = s.beginWait n ∨ w = (s.beginWait n).drew)
      (hn : n ≤ s.pending) : Ran s (.wait n) (w.waitCompletes n)
  | waitTimesOut (n : Nat) (w : State) (hw : w = s.beginWait n ∨ w = (s.beginWait n).drew)
      (hevent : s.timeoutEvent = true) (hallowed : Config.waitTimeout = true) :
      Ran s (.wait n) w.waitTimesOut
  | waitHolds (n : Nat) (hn : ¬ n ≤ s.pending)
      (hevent : ¬ (s.timeoutEvent = true ∧ Config.waitTimeout = true)) :
      Ran s (.wait n) (s.beginWait n)
  | statusClear :
      Ran s .statusClear ({ s with st := .completing }.busWrite .status Config.statusClearValue)
  | modeExit (v : Word) : Ran s (.modeExit v) (s.modeRmw v Config.modeIdle).endTransaction

/-- An operation whose one bus event is a write to neither `REG_TRIGGER` nor `REG_STATUS` is that write and
nothing more. -/
theorem exec_of_plainWrite {i : Instr} {r : Reg} {v : Word} (hev : busEvents i = [.write r v])
    (htrigger : r ≠ .trigger) (hstatus : r ≠ .status) (s : State) :
    exec i s = .next (s.busWrite r v) := by
  cases i
  case trigger => cases hev; contradiction
  case statusClear => cases hev; contradiction
  all_goals cases hev
  all_goals rfl

/-- The inversion of `exec`. -/
theorem ran_of_exec {i : Instr} {s t : State} (h : exec i s = .next t) : Ran s i t := by
  have plain : ∀ r v, busEvents i = [.write r v] → r ≠ .trigger → r ≠ .status → Ran s i t := by
    intro r v hev htrigger hstatus
    rw [exec_of_plainWrite hev htrigger hstatus] at h
    cases h
    exact .plainWrite i r v hev htrigger hstatus
  cases i
  case scQualifying m =>
    simp only [exec, execScQualifying] at h
    split at h
    · cases h
    · split at h
      · cases h
      · cases h; exact .codeFound m _ ‹_› (by omega)
  case scNonqualifying m =>
    simp only [exec, execScNonqualifying] at h
    split at h
    · cases h
    · cases h; exact .codeSkipped m _ ‹_›
  case modeEnter v => cases h; exact .modeEnter v
  case trigger p => cases h; exact .trigger p
  case wait n =>
    change execWait n s = _ at h
    rcases execWait_cases n s with ⟨hn, w, hw, hx⟩ | ⟨he, ha, w, hw, hx⟩ | ⟨hn, he, hx⟩ <;>
      (rw [hx] at h; cases h)
    · exact .waitCompletes n w hw hn
    · exact .waitTimesOut n w hw he ha
    · exact .waitHolds n hn he
  case statusClear => cases h; exact .statusClear
  case modeExit v => cases h; exact .modeExit v
  all_goals exact plain _ _ rfl nofun nofun

/-! ## Its part of the bus trace -/

/-- An operation puts its events at the end of the trace; a wait that held already puts none. -/
theorem Ran.trace {s t : State} {i : Instr} (h : Ran s i t) :
    t.trace = s.trace ++ busEvents i ∨ (t.trace = s.trace ∧ ∃ n, i = .wait n) := by
  have hwait : ∀ n, (s.beginWait n).trace = s.trace ++ busEvents (.wait n) ∨
      ((s.beginWait n).trace = s.trace ∧ ∃ m, Instr.wait n = .wait m) := by
    intro n
    rw [beginWait_trace]
    split
    · exact .inr ⟨rfl, n, rfl⟩
    · exact .inl rfl
  cases h with
  | waitCompletes n w hw _ => rcases hw with rfl | rfl <;> exact hwait n
  | waitTimesOut n w hw _ _ => rcases hw with rfl | rfl <;> exact hwait n
  | waitHolds n _ _ => exact hwait n
  | plainWrite i r v hev _ _ => left; simp [hev]
  | codeFound | codeSkipped | modeEnter | trigger | statusClear | modeExit =>
    left; simp [busEvents]

/-! ## Its part of the register file -/

theorem lastWrite_append (r : Reg) (l l' : List BusEvent) :
    lastWrite r (l ++ l') = (lastWrite r l').or (lastWrite r l) := by
  induction l with
  | nil => simp [lastWrite]
  | cons e rest ih =>
    cases e with
    | read | wait => simpa [lastWrite] using ih
    | write r' v =>
      simp only [List.cons_append, lastWrite, ih]
      cases lastWrite r l' <;> simp

@[simp] theorem lastWrite_write (r r' : Reg) (v : Word) :
    lastWrite r [.write r' v] = if r' = r then some v else none := rfl

@[simp] theorem lastWrite_wait (r : Reg) (n : Nat) : lastWrite r [.wait n] = none := rfl

@[simp] theorem lastWrite_nil (r : Reg) : lastWrite r [] = none := rfl

/-- A register that an operation writes is written by the operation's last event. -/
theorem busEvents_of_lastWrite {i : Instr} {r : Reg} {v : Word}
    (h : lastWrite r (busEvents i) = some v) : ∃ l, busEvents i = l ++ [.write r v] := by
  have single : ∀ r' v', busEvents i = [.write r' v'] → ∃ l, busEvents i = l ++ [.write r v] := by
    intro r' v' hev
    rw [hev, lastWrite_write] at h
    split at h
    · cases h; subst_vars; exact ⟨[], hev⟩
    · cases h
  cases i
  case scQualifying | scNonqualifying | wait => cases h
  case modeEnter x | modeExit x =>
    simp only [busEvents, lastWrite] at h
    split at h
    · cases h; subst_vars; exact ⟨[.read .mode x], rfl⟩
    · cases h
  all_goals exact single _ _ rfl

/-- An operation's effect on a register: the last word its events write to it, and otherwise none; the word
of `REG_STATUS` is never stored (entry 8). -/
theorem Ran.reg {s t : State} {i : Instr} (h : Ran s i t) (r : Reg) :
    t.reg r = if r = .status then s.reg r else (lastWrite r (busEvents i)).or (s.reg r) := by
  cases h with
  | waitCompletes n w hw _ => rcases hw with rfl | rfl <;> simp [busEvents]
  | waitTimesOut n w hw _ _ => rcases hw with rfl | rfl <;> simp [busEvents]
  | waitHolds n _ _ => simp [busEvents]
  | codeFound | codeSkipped => simp [busEvents, State.reg]
  | plainWrite i r' v hev _ hstatus =>
    rw [hev, reg_busWrite, lastWrite_write]
    by_cases hr : r = r'
    · subst hr; simp [hstatus]
    · simp [hr, Ne.symm hr]
  | trigger p =>
    change (s.busWrite .trigger (triggerWord p)).reg r = _
    by_cases hr : r = .trigger
    · subst hr; simp [busEvents]
    · simp [busEvents, hr, Ne.symm hr]
  | statusClear =>
    rw [reg_busWrite]
    by_cases hr : r = .status
    · simp [hr, State.reg]
    · simp [busEvents, hr, Ne.symm hr, State.reg]
  | modeEnter v | modeExit v =>
    by_cases hr : r = .mode
    · subst hr; simp [busEvents, lastWrite]
    · simp [busEvents, lastWrite, hr, Ne.symm hr]

end Sys2Proof.Machine

/-! PROOFS. The register file and the trace at every step (spec/10_state.md R27, R33). -/

namespace Sys2Proof.Machine

/-! ## What a step does to the registers -/

/-- An accepted request changes no register. -/
theorem accept_keeps_registers {s t : State} {q : Request} (h : s.accept q = .next t) :
    (∀ r, t.reg r = s.reg r) ∧ t.trace = [] := by
  obtain ⟨-, ⟨-, rfl⟩ | ⟨f, -, ⟨-, rfl⟩ | ⟨b, -, rfl⟩⟩⟩ := accept_cases h <;> exact ⟨fun _ => rfl, rfl⟩

/-- The host's turn changes no register, but for a session start, which makes all unknown. -/
theorem hostTurn_registers {s t : State} (h : s.hostTurn = .next t) :
    ((∀ r, t.reg r = s.reg r) ∧ (t.trace = s.trace ∨ t.trace = [])) ∨
    (s.host.head? = some .sessionStart ∧ (∀ r, t.reg r = none) ∧ t.trace = []) := by
  rcases hostTurn_cases h with rfl | ⟨q, rest, hhost, -, haccept⟩ | ⟨rest, -, -, rfl⟩ |
    ⟨a, b, rest, -, rfl⟩ | ⟨rest, -, rfl⟩ | ⟨rest, hhost, rfl⟩
  · exact .inl ⟨fun _ => rfl, .inl rfl⟩
  · obtain ⟨hreg, htrace⟩ := accept_keeps_registers haccept
    exact .inl ⟨hreg, .inr htrace⟩
  · exact .inl ⟨fun _ => rfl, .inl rfl⟩
  · exact .inl ⟨fun _ => rfl, .inl rfl⟩
  · exact .inl ⟨fun _ => rfl, .inl rfl⟩
  · exact .inr ⟨by simp [hhost], by simp, rfl⟩

/-- A step changes no register, or runs one operation, or starts a session. -/
theorem step_registers {s t : State} (h : step s = .next t) :
    ((∀ r, t.reg r = s.reg r) ∧ (t.trace = s.trace ∨ t.trace = [])) ∨
    (∃ i, Ran s.envTurn i t) ∨
    ((s.st = .idle ∧ s.latch = none ∧ s.host.head? = some .sessionStart) ∧
      (∀ r, t.reg r = none) ∧ t.trace = []) := by
  obtain ⟨e, rfl, ⟨hst, hlatch, hhost⟩ | ⟨-, q, sc, -, -, hscan⟩ | ⟨-, i, -, hexec⟩⟩ := step_cases h
  · rcases hostTurn_registers hhost with hkeep | ⟨hhead, hnone⟩
    · left; simpa using hkeep
    · rw [envTurn_st] at hst
      rw [envTurn_latch] at hlatch
      rw [envTurn_host] at hhead
      exact .inr (.inr ⟨⟨hst, hlatch, hhead⟩, hnone⟩)
  · left
    rcases hscan with ⟨-, rfl⟩ | ⟨-, -, rfl⟩ | ⟨-, -, w, b, -, ⟨-, -, rfl⟩ | ⟨-, rfl⟩⟩ <;>
      simp [State.scanEnd, State.reg]
  · exact .inr (.inl ⟨i, ran_of_exec hexec⟩)

/-! ## The invariant -/

/-- What keeps every register, and keeps the trace or empties it, keeps the registers at the trace's last
words. -/
theorem RegInv.of_keeps {s t : State} (hs : RegInv s) (hreg : ∀ r, t.reg r = s.reg r)
    (htrace : t.trace = s.trace ∨ t.trace = []) : RegInv t := by
  obtain ⟨hstatus, hwords⟩ := hs
  refine ⟨by rw [hreg, hstatus], fun r v hr hv => ?_⟩
  rcases htrace with htrace | htrace <;> rw [htrace] at hv
  · rw [hreg, hwords r v hr hv]
  · cases hv

/-- With every register unknown and no trace there is no word to hold. -/
theorem RegInv.of_unknown {t : State} (hreg : ∀ r, t.reg r = none) (htrace : t.trace = []) : RegInv t := by
  refine ⟨hreg _, fun r v _ hv => ?_⟩
  rw [htrace] at hv
  cases hv

/-- The engine's turn is not seen in the registers. -/
theorem RegInv.envTurn {s : State} (hs : RegInv s) : RegInv s.envTurn :=
  hs.of_keeps (by simp) (by simp)

/-- The last word to a register after an operation: the operation's own, or the one before. -/
theorem Ran.lastWrite_trace {s t : State} {i : Instr} (h : Ran s i t) (r : Reg) :
    lastWrite r t.trace = (lastWrite r (busEvents i)).or (lastWrite r s.trace) := by
  rcases h.trace with htrace | ⟨htrace, n, rfl⟩
  · rw [htrace, lastWrite_append]
  · simp [htrace, busEvents]

/-- Every operation keeps the registers at the trace's last words: register and trace take the same word. -/
theorem RegInv.of_ran {s t : State} {i : Instr} (hs : RegInv s) (h : Ran s i t) : RegInv t := by
  obtain ⟨hstatus, hwords⟩ := hs
  refine ⟨by simpa [h.reg] using hstatus, fun r v hr hv => ?_⟩
  rw [h.lastWrite_trace] at hv
  rw [h.reg, if_neg hr]
  cases hw : lastWrite r (busEvents i) with
  | some w => simpa [hw] using hv
  | none =>
    rw [hw, Option.none_or] at hv
    rw [Option.none_or, hwords r v hr hv]

/-- A register changes in an operation only to the word of the operation's last event. -/
theorem Ran.reg_eq_or_written {s t : State} {i : Instr} (h : Ran s i t) (r : Reg) :
    t.reg r = s.reg r ∨ ∃ l v, t.trace = s.trace ++ l ++ [.write r v] ∧ t.reg r = some v := by
  rw [h.reg]
  by_cases hr : r = .status
  · simp [hr]
  · rw [if_neg hr]
    cases hw : lastWrite r (busEvents i) with
    | none => simp
    | some v =>
      right
      obtain ⟨l, hl⟩ := busEvents_of_lastWrite hw
      rcases h.trace with htrace | ⟨-, n, rfl⟩
      · exact ⟨l, v, by rw [htrace, hl, List.append_assoc], rfl⟩
      · cases hw

/-- Settles O54, by what a step can do to the registers: nothing, one operation's last event, or a session
start. -/
theorem stepKeepsRegisterInvariant : Obligations.StepKeepsRegisterInvariant := by
  intro s t hs h
  rcases step_registers h with ⟨hreg, htrace⟩ | ⟨i, hran⟩ | ⟨hstart, hreg, htrace⟩
  · exact ⟨hs.of_keeps hreg htrace, fun _ r => .inl (hreg r)⟩
  · exact ⟨hs.envTurn.of_ran hran, fun _ r => by simpa using hran.reg_eq_or_written r⟩
  · exact ⟨.of_unknown hreg htrace, fun hno => absurd hstart hno⟩

end Sys2Proof.Machine

/-! PROOFS. The transaction program (spec/42_sequencer.md R150): its length, and the shape of the operations
of each step. -/

namespace Sys2Proof.Machine

/-! ## Lengths -/

@[simp] theorem enterOps_length (v : Word) : (enterOps v).length = 1 := rfl
@[simp] theorem qtabOps_length (q : Request) : (qtabOps q).length = 128 := by simp [qtabOps]
@[simp] theorem sizeOps_length (q : Request) : (sizeOps q).length = 2 := rfl
@[simp] theorem fwdOps_length (f : Option Surface) :
    (fwdOps f).length = if f.isSome then 2 else 0 := by cases f <;> rfl
@[simp] theorem bwdOps_length (b : Option Surface) :
    (bwdOps b).length = if b.isSome then 2 else 0 := by cases b <;> rfl
@[simp] theorem outOps_length (o : Surface) : (outOps o).length = 4 := rfl
@[simp] theorem vldOps_length (q : Request) (off : Nat) : (vldOps q off).length = 4 := rfl
@[simp] theorem exitOps_length (v : Word) : (exitOps v).length = 1 := rfl

/-- Settles O16: the lengths of the twelve steps add up. -/
theorem programLength : Obligations.ProgramLength := by
  intro q fwd bwd off m1 m12
  simp only [program, List.length_append, List.length_cons, List.length_nil, enterOps_length,
    qtabOps_length, sizeOps_length, fwdOps_length, bwdOps_length, outOps_length, vldOps_length,
    exitOps_length]
  omega

/-! ## The operations of steps 2 to 8 -/

/-- The operation is one plain register write. -/
def isPlainWrite (i : Instr) : Prop :=
  ∃ r v, busEvents i = [.write r v] ∧ r ≠ .trigger ∧ r ≠ .status

theorem qtabOps_plain {q : Request} {i : Instr} (h : i ∈ qtabOps q) : isPlainWrite i := by
  simp only [qtabOps, List.mem_append, List.mem_map] at h
  obtain ⟨j, -, rfl⟩ | ⟨j, -, rfl⟩ := h <;> exact ⟨.iq, _, rfl, nofun, nofun⟩

theorem fwdOps_plain {f : Option Surface} {i : Instr} (h : i ∈ fwdOps f) : isPlainWrite i := by
  cases f with
  | none => cases h
  | some f =>
    simp only [fwdOps, List.mem_cons, List.not_mem_nil, or_false] at h
    obtain rfl | rfl := h <;> exact ⟨_, _, rfl, nofun, nofun⟩

theorem bwdOps_plain {b : Option Surface} {i : Instr} (h : i ∈ bwdOps b) : isPlainWrite i := by
  cases b with
  | none => cases h
  | some b =>
    simp only [bwdOps, List.mem_cons, List.not_mem_nil, or_false] at h
    obtain rfl | rfl := h <;> exact ⟨_, _, rfl, nofun, nofun⟩

theorem outOps_plain {o : Surface} {i : Instr} (h : i ∈ outOps o) : isPlainWrite i := by
  simp only [outOps, List.mem_cons, List.not_mem_nil, or_false] at h
  obtain rfl | rfl | rfl | rfl := h <;> exact ⟨_, _, rfl, nofun, nofun⟩

theorem vldOps_plain {q : Request} {off : Nat} {i : Instr} (h : i ∈ vldOps q off) : isPlainWrite i := by
  simp only [vldOps, List.mem_cons, List.not_mem_nil, or_false] at h
  obtain rfl | rfl | rfl | rfl := h <;> exact ⟨_, _, rfl, nofun, nofun⟩

theorem sizeOps_plain {q : Request} {i : Instr} (h : i ∈ sizeOps q) : isPlainWrite i := by
  simp only [sizeOps, List.mem_cons, List.not_mem_nil, or_false] at h
  obtain rfl | rfl := h <;> exact ⟨_, _, rfl, nofun, nofun⟩

/-- Every operation of steps 2 to 8 is one plain register write. -/
theorem stepOps_plain {q : Request} {fwd bwd : Option Surface} {off : Nat} {m : Word} {n : Nat}
    (h2 : 2 ≤ n) (h8 : n ≤ 8) {i : Instr} (h : i ∈ stepOps q fwd bwd off m n) : isPlainWrite i := by
  match n, h2, h8, h with
  | 2, _, _, h => exact qtabOps_plain h
  | 3, _, _, h => exact sizeOps_plain h
  | 4, _, _, h => obtain rfl := List.mem_singleton.mp h; exact ⟨_, _, rfl, nofun, nofun⟩
  | 5, _, _, h => obtain rfl := List.mem_singleton.mp h; exact ⟨_, _, rfl, nofun, nofun⟩
  | 6, _, _, h => exact (List.mem_append.mp h).elim fwdOps_plain bwdOps_plain
  | 7, _, _, h => exact outOps_plain h
  | 8, _, _, h => exact vldOps_plain h

/-! ## The step pointer -/

/-- Only step 6 can have no operation (R23). -/
theorem opCount_pos (fwd bwd : Option Surface) {n : Nat} (h1 : 1 ≤ n) (h12 : n ≤ 12) (h6 : n ≠ 6) :
    0 < opCount fwd bwd n := by
  interval_cases n <;> simp [opCount] at h6 ⊢

/-- Before step 9, the next place is again one of the program's, in the steps up to 9 (R23). -/
theorem Pc.after_in_program (fwd bwd : Option Surface) {p : Pc} (h1 : 1 ≤ p.step) (h8 : p.step ≤ 8) :
    1 ≤ (p.after fwd bwd).step ∧ (p.after fwd bwd).step ≤ 9 ∧
      (p.after fwd bwd).k < opCount fwd bwd (p.after fwd bwd).step := by
  obtain ⟨n, k⟩ := p
  dsimp only at h1 h8
  unfold Pc.after
  dsimp only
  split
  · exact ⟨h1, by dsimp only; omega, ‹_›⟩
  · split
    · exact ⟨by simp, by simp, by simp [opCount]⟩
    · next hskip =>
      refine ⟨by simp, Nat.succ_le_succ h8, ?_⟩
      obtain rfl | hne := eq_or_ne n 5
      · exact Nat.pos_of_ne_zero fun h0 => hskip ⟨rfl, h0⟩
      · exact opCount_pos fwd bwd (Nat.le_add_left _ _) (by dsimp only; omega) (by dsimp only; omega)

end Sys2Proof.Machine

/-! PROOFS. The sequencer's fields at every step (spec/10_state.md R22, R23). -/

namespace Sys2Proof.Machine

/-! ## The invariant, state by state -/

theorem seqInv_idle {s : State} (h : s.st = .idle) :
    SeqInv s ↔ s.pc = none ∧ s.outcome = none ∧ s.scan.isSome = s.latch.isSome := by
  simp [SeqInv, h]

/-- What the invariant takes at Idle. -/
theorem SeqInv.atIdle {s : State} (h : s.st = .idle) (hpc : s.pc = none) (hout : s.outcome = none)
    (hscan : s.scan.isSome = s.latch.isSome) : SeqInv s :=
  (seqInv_idle h).mpr ⟨hpc, hout, hscan⟩

theorem seqInv_configuring {s : State} (h : s.st = .configuring) :
    SeqInv s ↔ s.latch.isSome = true ∧ s.scan = none ∧ s.outcome = none ∧
      ∃ p, s.pc = some p ∧ 1 ≤ p.step ∧ p.step ≤ 9 ∧ p.k < opCount s.fwd s.bwd p.step := by
  simp [SeqInv, h]

theorem seqInv_triggered {s : State} (h : s.st = .triggered) :
    SeqInv s ↔ s.latch.isSome = true ∧ s.scan = none ∧ s.outcome = none ∧ s.pc = some ⟨10, 0⟩ := by
  simp [SeqInv, h]

theorem seqInv_awaitingCompletion {s : State} (h : s.st = .awaitingCompletion) :
    SeqInv s ↔ s.latch.isSome = true ∧ s.scan = none ∧
      ((s.outcome = none ∧ s.pc = some ⟨10, 0⟩) ∨
       (s.outcome.isSome = true ∧ s.pc = some ⟨11, 0⟩)) := by
  simp [SeqInv, h]

theorem seqInv_completing {s : State} (h : s.st = .completing) :
    SeqInv s ↔ s.latch.isSome = true ∧ s.scan = none ∧ s.outcome.isSome = true ∧
      s.pc = some ⟨12, 0⟩ := by
  simp [SeqInv, h]

/-- The engine's turn is not seen by the sequencer. -/
@[simp] theorem seqInv_envTurn (s : State) : SeqInv s.envTurn ↔ SeqInv s := by
  simp [SeqInv]

/-- Outside Idle the operation issued is the program's at the step pointer. -/
theorem issue_eq_some {s : State} {i : Instr} (h : s.issue = some i) :
    ∃ q p, s.latch = some q ∧ s.pc = some p ∧
      (stepOps q s.fwd s.bwd s.res.startOffset s.modeNext p.step)[p.k]? = some i := by
  unfold State.issue at h
  split at h
  · exact ⟨_, _, ‹_›, ‹_›, h⟩
  · cases h

/-- What the sequencer issues, by its state: the six places at which an operation of a transaction can
stand. -/
theorem issue_cases {s : State} {i : Instr} (hs : SeqInv s) (hst : s.st ≠ .idle) (h : s.issue = some i) :
    (s.st = .configuring ∧ s.pc = some ⟨1, 0⟩ ∧ i = .modeEnter s.modeNext) ∨
    (s.st = .configuring ∧ (∃ p, s.pc = some p ∧ 2 ≤ p.step ∧ p.step ≤ 8) ∧ isPlainWrite i) ∨
    (s.st = .configuring ∧ s.pc = some ⟨9, 0⟩ ∧ ∃ p, i = .trigger p) ∨
    ((s.st = .triggered ∨ s.st = .awaitingCompletion) ∧ s.outcome = none ∧ s.pc = some ⟨10, 0⟩ ∧
      i = .wait Config.waitCount) ∨
    (s.st = .awaitingCompletion ∧ s.outcome.isSome = true ∧ s.pc = some ⟨11, 0⟩ ∧ i = .statusClear) ∨
    (s.st = .completing ∧ s.pc = some ⟨12, 0⟩ ∧ i = .modeExit s.modeNext) := by
  obtain ⟨q, p, -, hpc, hi⟩ := issue_eq_some h
  cases hstate : s.st with
  | idle => contradiction
  | configuring =>
    obtain ⟨-, -, -, p', hpc', h1, h9, hk⟩ := (seqInv_configuring hstate).mp hs
    obtain rfl : p = p' := Option.some.inj (hpc.symm.trans hpc')
    obtain ⟨n, k⟩ := p
    simp only at h1 h9 hk hi
    obtain rfl | ⟨h2, h8⟩ | rfl : n = 1 ∨ (2 ≤ n ∧ n ≤ 8) ∨ n = 9 := by omega
    · obtain rfl : k = 0 := Nat.lt_one_iff.mp hk
      exact .inl ⟨rfl, hpc, (Option.some.inj hi).symm⟩
    · exact .inr (.inl ⟨rfl, ⟨_, hpc, h2, h8⟩, stepOps_plain h2 h8 (List.mem_of_getElem? hi)⟩)
    · obtain rfl : k = 0 := Nat.lt_one_iff.mp hk
      exact .inr (.inr (.inl ⟨rfl, hpc, _, (Option.some.inj hi).symm⟩))
  | triggered =>
    obtain ⟨-, -, hout, hpc'⟩ := (seqInv_triggered hstate).mp hs
    obtain rfl := Option.some.inj (hpc.symm.trans hpc')
    exact .inr (.inr (.inr (.inl ⟨.inl rfl, hout, hpc, (Option.some.inj hi).symm⟩)))
  | awaitingCompletion =>
    obtain ⟨-, -, ⟨hout, hpc'⟩ | ⟨hout, hpc'⟩⟩ := (seqInv_awaitingCompletion hstate).mp hs <;>
      obtain rfl := Option.some.inj (hpc.symm.trans hpc')
    · exact .inr (.inr (.inr (.inl ⟨.inr rfl, hout, hpc, (Option.some.inj hi).symm⟩)))
    · exact .inr (.inr (.inr (.inr (.inl ⟨rfl, hout, hpc, (Option.some.inj hi).symm⟩))))
  | completing =>
    obtain ⟨-, -, -, hpc'⟩ := (seqInv_completing hstate).mp hs
    obtain rfl := Option.some.inj (hpc.symm.trans hpc')
    exact .inr (.inr (.inr (.inr (.inr ⟨rfl, hpc, (Option.some.inj hi).symm⟩))))

end Sys2Proof.Machine

/-! PROOFS. The sequencer's step: its fields agree again, and its states follow one another in R22's order. -/

namespace Sys2Proof.Machine

/-- R22: the state stays, or moves one place along Idle, Configuring, Triggered, AwaitingCompletion,
Completing, Idle. -/
def inOrder (a b : SeqState) : Prop :=
  b = a ∨ (a = .idle ∧ b = .configuring) ∨ (a = .configuring ∧ b = .triggered) ∨
  (a = .triggered ∧ b = .awaitingCompletion) ∨ (a = .awaitingCompletion ∧ b = .completing) ∨
  (a = .completing ∧ b = .idle)

/-- Outside Idle a request is latched and no scan is in progress. -/
theorem SeqInv.latched {s : State} (hs : SeqInv s) (hst : s.st ≠ .idle) :
    s.latch.isSome = true ∧ s.scan = none := by
  cases hstate : s.st with
  | idle => contradiction
  | configuring => exact ((seqInv_configuring hstate).mp hs).imp id And.left
  | triggered => exact ((seqInv_triggered hstate).mp hs).imp id And.left
  | awaitingCompletion => exact ((seqInv_awaitingCompletion hstate).mp hs).imp id And.left
  | completing => exact ((seqInv_completing hstate).mp hs).imp id And.left

/-- In Configuring, before step 9, the step pointer's next place is the program's too. -/
theorem SeqInv.advance {s : State} {p : Pc} (hs : SeqInv s) (hst : s.st = .configuring)
    (hpc : s.pc = some p) (h1 : 1 ≤ p.step) (h8 : p.step ≤ 8) : SeqInv s.advance := by
  obtain ⟨hlatch, hscan, hout, -⟩ := (seqInv_configuring hst).mp hs
  have hpc' : s.advance.pc = some (p.after s.fwd s.bwd) := by simp [hpc]
  exact (seqInv_configuring (s := s.advance) hst).mpr
    ⟨hlatch, hscan, hout, _, hpc', Pc.after_in_program _ _ h1 h8⟩

/-- The wait at step 10: it holds with the step pointer where it is, or ends with an outcome and the
pointer at step 11. -/
theorem SeqInv.of_wait {s t : State} {n : Nat} (hlatch : s.latch.isSome = true) (hscan : s.scan = none)
    (hout : s.outcome = none) (hpc : s.pc = some ⟨10, 0⟩) (h : execWait n s = .next t) :
    SeqInv t ∧ t.st = .awaitingCompletion := by
  have ended : ∀ w, (w = s.beginWait n ∨ w = (s.beginWait n).drew) →
      (SeqInv (w.waitCompletes n) ∧ (w.waitCompletes n).st = .awaitingCompletion) ∧
      SeqInv w.waitTimesOut ∧ w.waitTimesOut.st = .awaitingCompletion := by
    rintro w (rfl | rfl) <;>
      simp [seqInv_awaitingCompletion, hlatch, hscan, hpc, Pc.after, opCount]
  rcases execWait_cases n s with ⟨-, w, hw, hx⟩ | ⟨-, -, w, hw, hx⟩ | ⟨-, -, hx⟩ <;>
    (rw [hx] at h; cases h)
  · exact (ended w hw).1
  · exact (ended w hw).2
  · simp [seqInv_awaitingCompletion, hlatch, hscan, hpc, hout]

/-- Every operation that the sequencer issues keeps the invariant and R22's order. -/
theorem SeqInv.of_issued {s t : State} {i : Instr} (hs : SeqInv s) (hst : s.st ≠ .idle)
    (hi : s.issue = some i) (h : exec i s = .next t) : SeqInv t ∧ inOrder s.st t.st := by
  obtain ⟨hlatch, hscan⟩ := hs.latched hst
  rcases issue_cases hs hst hi with ⟨hc, hpc, rfl⟩ | ⟨hc, ⟨p, hpc, h2, h8⟩, r, v, hev, htr, hsr⟩ |
    ⟨hc, hpc, p, rfl⟩ | ⟨hw, hout, hpc, rfl⟩ | ⟨ha, hout, hpc, rfl⟩ | ⟨hc, hpc, rfl⟩
  · cases h
    have hinv : SeqInv (s.modeRmw s.modeNext 0) := hs
    exact ⟨hinv.advance hc hpc (by decide) (by decide), .inl rfl⟩
  · rw [exec_of_plainWrite hev htr hsr] at h
    cases h
    have hinv : SeqInv (s.regWrite r v) := hs
    exact ⟨hinv.advance hc hpc (by omega) h8, .inl rfl⟩
  · obtain ⟨-, -, hout, -⟩ := (seqInv_configuring hc).mp hs
    cases h
    refine ⟨(seqInv_triggered rfl).mpr ?_, by simp [inOrder, hc]⟩
    simp [hlatch, hscan, hout, hpc, Pc.after, opCount]
  · obtain ⟨hinv, hst'⟩ := SeqInv.of_wait hlatch hscan hout hpc h
    rcases hw with hw | hw <;> simp [hinv, inOrder, hst', hw]
  · cases h
    refine ⟨(seqInv_completing rfl).mpr ?_, by simp [inOrder, ha]⟩
    simp [hlatch, hscan, hout, hpc, Pc.after, opCount]
  · cases h
    exact ⟨.atIdle rfl rfl rfl (by simp [hscan]), by simp [inOrder, hc]⟩

/-- The host's turn at Idle keeps the invariant and stays at Idle. -/
theorem SeqInv.of_hostTurn {s t : State} (hs : SeqInv s) (hst : s.st = .idle) 
    (h : s.hostTurn = .next t) : SeqInv t ∧ t.st = .idle := by
  obtain ⟨hpc, hout, hscan⟩ := (seqInv_idle hst).mp hs
  rcases hostTurn_cases h with rfl | ⟨q, rest, -, -, haccept⟩ | ⟨rest, -, -, rfl⟩ |
    ⟨a, b, rest, -, rfl⟩ | ⟨rest, -, rfl⟩ | ⟨rest, -, rfl⟩
  · exact ⟨hs, hst⟩
  · obtain ⟨-, ⟨-, rfl⟩ | ⟨f, -, ⟨-, rfl⟩ | ⟨b, -, rfl⟩⟩⟩ := accept_cases haccept
    · exact ⟨.atIdle hst hpc hout hscan, hst⟩
    · exact ⟨.atIdle hst hpc hout hscan, hst⟩
    · exact ⟨.atIdle hst hpc rfl rfl, hst⟩
  · exact ⟨.atIdle hst hpc hout hscan, hst⟩
  · exact ⟨.atIdle hst hpc hout hscan, hst⟩
  · exact ⟨.atIdle hst hpc hout hscan, hst⟩
  · exact ⟨.atIdle rfl rfl rfl rfl, rfl⟩

/-- The scan's end begins step 1; the latched request stays. -/
theorem SeqInv.of_finishScan {s : State} (hs : SeqInv s) (hst : s.st = .idle)
    (hlatch : s.latch.isSome = true) (off : Nat) (found : Bool) :
    SeqInv (s.finishScan off found) ∧ inOrder s.st (s.finishScan off found).st := by
  obtain ⟨-, hout, -⟩ := (seqInv_idle hst).mp hs
  refine ⟨(seqInv_configuring rfl).mpr ?_, by simp [inOrder, hst]⟩
  simp [hlatch, hout, opCount]

/-- A step that goes on with a scan keeps the invariant. -/
theorem SeqInv.of_scanGoesOn {s : State} (hs : SeqInv s) (hst : s.st = .idle)
    (hlatch : s.latch.isSome = true) (sc : Scanner) : SeqInv { s with scan := some sc } := by
  obtain ⟨hpc, hout, -⟩ := (seqInv_idle hst).mp hs
  exact .atIdle hst hpc hout hlatch.symm

/-- Every step keeps the invariant and R22's order. -/
theorem SeqInv.of_step {s t : State} (hs : SeqInv s) (h : step s = .next t) :
    SeqInv t ∧ inOrder s.st t.st := by
  rw [← seqInv_envTurn s] at hs
  rw [← envTurn_st s]
  obtain ⟨e, rfl, ⟨hst, -, hhost⟩ | ⟨hst, q, sc, hlatch, -, hscan⟩ | ⟨hst, i, hi, hexec⟩⟩ :=
    step_cases h
  · obtain ⟨hinv, hst'⟩ := hs.of_hostTurn hst hhost
    exact ⟨hinv, .inl (hst'.trans hst.symm)⟩
  · have hsome : s.envTurn.latch.isSome = true := by rw [hlatch]; rfl
    rcases hscan with ⟨-, rfl⟩ | ⟨-, -, rfl⟩ | ⟨-, -, w, b, -, ⟨-, -, rfl⟩ | ⟨-, rfl⟩⟩
    · exact hs.of_finishScan hst hsome 0 false
    · exact ⟨hs.of_scanGoesOn hst hsome _, .inl rfl⟩
    · exact hs.of_finishScan hst hsome _ true
    · exact ⟨hs.of_scanGoesOn hst hsome _, .inl rfl⟩
  · exact hs.of_issued hst hi hexec

/-- Settles O50, by the case of the step: the host's turn, a look of the scan, or an issued operation. -/
theorem stepKeepsSequencerInvariant : Obligations.StepKeepsSequencerInvariant :=
  fun _ _ hs h => (hs.of_step h).1

/-- Settles O55, by the same cases as O50. -/
theorem sequencerStatesInOrder : Obligations.SequencerStatesInOrder :=
  fun _ _ hs h => (hs.of_step h).2

end Sys2Proof.Machine

/-! PROOFS. The request latch at every step (spec/10_state.md R24, spec/42_sequencer.md R158). -/

namespace Sys2Proof.Machine

/-- An operation keeps the request and the resolved surfaces, or ends the transaction with none held. -/
theorem Ran.latch {s t : State} {i : Instr} (h : Ran s i t) :
    t.latch = none ∨ (t.latch = s.latch ∧ t.fwd = s.fwd ∧ t.bwd = s.bwd) := by
  cases h with
  | modeExit => exact .inl rfl
  | waitCompletes n w hw _ => right; rcases hw with rfl | rfl <;> simp
  | waitTimesOut n w hw _ _ => right; rcases hw with rfl | rfl <;> simp
  | waitHolds => right; simp
  | codeFound | codeSkipped | modeEnter | plainWrite | trigger | statusClear =>
    exact .inr ⟨rfl, rfl, rfl⟩

/-- A step keeps the latch and the surfaces, or leaves no request latched, or latches a well-formed request
with the surfaces its references resolve to. -/
theorem step_latch {s t : State} (h : step s = .next t) :
    t.latch = none ∨ (t.latch = s.latch ∧ t.fwd = s.fwd ∧ t.bwd = s.bwd) ∨
    ∃ q, t.latch = some q ∧ q.wf = true ∧ resolveRef q.forwardRef = some t.fwd ∧
      resolveRef q.backwardRef = some t.bwd := by
  rw [← envTurn_latch s, ← envTurn_fwd s, ← envTurn_bwd s]
  obtain ⟨e, rfl, ⟨-, hlatch, hhost⟩ | ⟨-, q, sc, -, -, hscan⟩ | ⟨-, i, -, hexec⟩⟩ := step_cases h
  · rcases hostTurn_cases hhost with rfl | ⟨q, rest, -, -, haccept⟩ | ⟨rest, -, -, rfl⟩ |
      ⟨a, b, rest, -, rfl⟩ | ⟨rest, -, rfl⟩ | ⟨rest, -, rfl⟩
    · exact .inl hlatch
    · obtain ⟨hwf, ⟨-, rfl⟩ | ⟨f, hf, ⟨-, rfl⟩ | ⟨b, hb, rfl⟩⟩⟩ := accept_cases haccept
      · exact .inl hlatch
      · exact .inl hlatch
      · exact .inr (.inr ⟨q, rfl, hwf, hf, hb⟩)
    · exact .inl hlatch
    · exact .inl hlatch
    · exact .inl hlatch
    · exact .inl rfl
  · right; left
    rcases hscan with ⟨-, rfl⟩ | ⟨-, -, rfl⟩ | ⟨-, -, w, b, -, ⟨-, -, rfl⟩ | ⟨-, rfl⟩⟩ <;>
      exact ⟨rfl, rfl, rfl⟩
  · exact (ran_of_exec hexec).latch.imp id .inl

/-- Settles O51: only the acceptance of a request latches one, and it checks both claims first. -/
theorem stepKeepsLatchInvariant : Obligations.StepKeepsLatchInvariant := by
  intro s t hs h q hq
  rcases step_latch h with hnone | ⟨hlatch, hfwd, hbwd⟩ | ⟨q', hq', hwf, hf, hb⟩
  · rw [hnone] at hq; cases hq
  · rw [hfwd, hbwd]; exact hs q (hlatch ▸ hq)
  · obtain rfl : q' = q := Option.some.inj (hq'.symm.trans hq)
    exact ⟨hwf, hf, hb⟩

end Sys2Proof.Machine

/-! PROOFS. The engine's and the timer's turn (spec/10_state.md R21; spec/42_sequencer.md R173). -/

namespace Sys2Proof.Machine

/-! ## The fields that a move can change -/

@[simp] theorem envMove_env (s : State) (m : EnvMove) : (s.envMove m).env = s.env := by
  cases m <;> simp only [State.envMove] <;> split <;> rfl

@[simp] theorem envMoves_env (s : State) (ms : List EnvMove) : (s.envMoves ms).env = s.env := by
  induction ms generalizing s with
  | nil => rfl
  | cons m rest ih => simp [State.envMoves, ih]

/-- A turn is the moves of the list's head, after the last step's timeout event has ended. -/
theorem envTurn_eq (s : State) :
    s.envTurn = { s with env := s.env.tail, timeoutEvent := false }.envMoves (s.env.headD []) := by
  cases h : s.env with
  | nil => rw [envTurn_of_nil h]; simp [State.envMoves, h]
  | cons ms rest => rw [envTurn_of_cons h]; rfl

/-- The timeout event is there after some moves exactly when it was there, or is one of them. -/
theorem envMoves_timeoutEvent (s : State) (ms : List EnvMove) :
    (s.envMoves ms).timeoutEvent = true ↔ s.timeoutEvent = true ∨ .timeoutFires ∈ ms := by
  induction ms generalizing s with
  | nil => simp [State.envMoves]
  | cons m rest ih =>
    rw [State.envMoves, ih]
    cases m with
    | completes d => simp only [State.envMove]; split <;> simp
    | storesPixel a b => simp only [State.envMove]; split <;> simp
    | modeBecomes w => simp [State.envMove]
    | timeoutFires => simp [State.envMove]

/-- What each of some moves keeps, they keep together. -/
theorem envMoves_keeps {P : State → Prop} {s : State} {ms : List EnvMove}
    (hm : ∀ m ∈ ms, ∀ e, P e → P (e.envMove m)) (hs : P s) : P (s.envMoves ms) := by
  induction ms generalizing s with
  | nil => exact hs
  | cons m rest ih =>
    exact ih (fun m' h => hm m' (List.mem_cons_of_mem _ h)) (hm m List.mem_cons_self s hs)

/-- Only the engine's own move sets the word that the next read of `REG_MODE` returns (R21 b). -/
theorem envMoves_modeNext {s : State} {ms : List EnvMove} (h : ∀ w, .modeBecomes w ∉ ms) :
    (s.envMoves ms).modeNext = s.modeNext := by
  refine envMoves_keeps (P := fun e => e.modeNext = s.modeNext) (fun m hm e he => ?_) rfl
  cases m with
  | modeBecomes w => exact absurd hm (h w)
  | completes d => simp only [State.envMove]; split <;> exact he
  | storesPixel a b => simp only [State.envMove]; split <;> exact he
  | timeoutFires => exact he

/-- Only a completion adds an event (R21 a). -/
theorem envMoves_pending {s : State} {ms : List EnvMove} (h : ∀ d, .completes d ∉ ms) :
    (s.envMoves ms).pending = s.pending := by
  refine envMoves_keeps (P := fun e => e.pending = s.pending) (fun m hm e he => ?_) rfl
  cases m with
  | completes d => exact absurd hm (h d)
  | modeBecomes w => exact he
  | storesPixel a b => simp only [State.envMove]; split <;> exact he
  | timeoutFires => exact he

/-! ## What a whole turn keeps -/

/-- Each event a turn adds ends one running decode (entry 12). -/
theorem envTurn_completions (s : State) :
    s.pending ≤ s.envTurn.pending ∧
    s.envTurn.pending + s.envTurn.running.length = s.pending + s.running.length ∧
    s.envTurn.running.Sublist s.running := by
  refine envTurn_keeps (P := fun e => s.pending ≤ e.pending ∧
    e.pending + e.running.length = s.pending + s.running.length ∧ e.running.Sublist s.running) s
    (fun _ => ⟨le_refl _, rfl, List.Sublist.refl _⟩) ?_
  rintro e m ⟨hle, hsum, hsub⟩
  rcases envMove_cases e m with hm | ⟨d, -, hd, hm⟩ | ⟨w, hm⟩ | ⟨-, a, b, -, hm⟩ | hm <;> rw [hm]
  · exact ⟨hle, hsum, hsub⟩
  · refine ⟨Nat.le_succ_of_le hle, ?_, List.erase_sublist.trans hsub⟩
    have hpos := List.length_pos_of_mem hd
    dsimp only
    rw [List.length_erase_of_mem hd]
    omega
  · exact ⟨hle, hsum, hsub⟩
  · exact ⟨hle, hsum, hsub⟩
  · exact ⟨hle, hsum, hsub⟩

/-- With no decode running a turn stores nothing (entry 19). -/
theorem envTurn_mem_of_no_decode {s : State} (h : s.running = []) : s.envTurn.mem = s.mem := by
  refine (envTurn_keeps (P := fun e => e.running = [] ∧ e.mem = s.mem) s (fun _ => ⟨h, rfl⟩) ?_).2
  rintro e m ⟨hrun, hmem⟩
  rcases envMove_cases e m with hm | ⟨d, -, hd, -⟩ | ⟨w, hm⟩ | ⟨hne, -⟩ | hm
  · rw [hm]; exact ⟨hrun, hmem⟩
  · rw [hrun] at hd; cases hd
  · rw [hm]; exact ⟨hrun, hmem⟩
  · exact absurd hrun hne
  · rw [hm]; exact ⟨hrun, hmem⟩

/-- A turn keeps the bytes of a latched buffer (entry 19). -/
theorem envTurn_bufBytes {s : State} {q : Request} (h : s.latch = some q) :
    bufBytes s.envTurn.mem q = bufBytes s.mem q := by
  refine (envTurn_keeps (P := fun e => e.latch = some q ∧ bufBytes e.mem q = bufBytes s.mem q) s
    (fun _ => ⟨h, rfl⟩) ?_).2
  rintro e m ⟨hlatch, hbuf⟩
  rcases envMove_cases e m with hm | ⟨d, -, -, hm⟩ | ⟨w, hm⟩ | ⟨-, a, b, hout, hm⟩ | hm <;> rw [hm]
  · exact ⟨hlatch, hbuf⟩
  · exact ⟨hlatch, hbuf⟩
  · exact ⟨hlatch, hbuf⟩
  · rw [hlatch] at hout
    exact ⟨hlatch, (bufBytes_write hout b).trans hbuf⟩
  · exact ⟨hlatch, hbuf⟩

/-- Settles O45: the three moves by running them, the whole turn by what each of its moves keeps. -/
theorem engineTurnKeepsTransaction : Obligations.EngineTurnKeepsTransaction := by
  refine ⟨?completes, ?modeBecomes, ?storesPixel, fun s => ?turn⟩
  case completes =>
    intro s d rest henv hd
    simp [envTurn_of_cons henv, State.envMoves, State.envMove, hd]
  case modeBecomes =>
    intro s w rest henv
    simp [envTurn_of_cons henv, State.envMoves, State.envMove]
  case storesPixel =>
    intro s a b rest hmem henv hrun hout x
    have hturn : s.envTurn.mem = Memory.write s.mem a b := by
      simp [envTurn_of_cons henv, State.envMoves, State.envMove, hrun, hout]
    rw [hturn]
    exact Memory.read_write hmem a x b
  case turn =>
    obtain ⟨hle, hsum, hsub⟩ := envTurn_completions s
    have htimeout : s.envTurn.timeoutEvent = true ↔ EnvMove.timeoutFires ∈ s.env.headD [] := by
      simp [envTurn_eq, envMoves_timeoutEvent]
    have henv : s.envTurn.env = s.env.tail := by simp [envTurn_eq]
    refine ⟨htimeout, fun h => ?_, fun h => ?_, henv, envTurn_draws s, hle, hsum, hsub,
      envTurn_mem_of_no_decode, ?_⟩
    · rw [envTurn_eq, envMoves_modeNext h]
    · rw [envTurn_eq, envMoves_pending h]
    · simp only [envTurn_st, envTurn_pc, envTurn_latch, envTurn_fwd, envTurn_bwd, envTurn_outcome,
        envTurn_scan, envTurn_res, envTurn_resValid, envTurn_sessionOpen, envTurn_trace, reg_envTurn,
        envTurn_qt, envTurn_decodes, envTurn_leftover, envTurn_host, envTurn_delivered, implies_true,
        true_and]
      exact fun _ => envTurn_bufBytes

end Sys2Proof.Machine

/-! PROOFS. Reset and the reading of the result (spec/10_state.md R29, R46). -/

namespace Sys2Proof.Machine

/-- At Idle with no request latched the step is the host's turn. -/
theorem step_eq_hostTurn {s : State} (hst : s.st = .idle) (hlatch : s.latch = none) :
    step s = s.envTurn.hostTurn := by
  simp [step, State.activity, hst, hlatch]

/-- The host's read of `res` answers it when a transaction has ended, and is refused before (R46). -/
theorem hostTurn_readResult {s : State} {rest : List HostMove} (h : s.host = .readResult :: rest) :
    s.hostTurn = if s.resValid = true then .next { s with host := rest, delivered := some s.res }
      else .refused .resultNotReady := by
  simp [State.hostTurn, h]

/-- Settles O43: the engine's turn before the read leaves `res` as it is. -/
theorem resultReadableAfterEnd : Obligations.ResultReadableAfterEnd := by
  intro s rest hst hlatch hhost
  have hhost' : s.envTurn.host = .readResult :: rest := by rw [envTurn_host, hhost]
  rw [step_eq_hostTurn hst hlatch, hostTurn_readResult hhost']
  simp only [envTurn_resValid, envTurn_res]

/-- Settles O1; the refused read is O43's at the reset state. -/
theorem resetLeavesIdle : Obligations.ResetLeavesIdle := by
  refine ⟨rfl, rfl, rfl, rfl, reg_reset, rfl, rfl, ?_⟩
  rw [resultReadableAfterEnd _ [] rfl rfl rfl]
  exact if_neg Bool.false_ne_true

/-- Settles O2: at Idle with no request latched, no scan and no trace, the invariants ask nothing more. -/
theorem resetMeetsInvariants : Obligations.ResetMeetsInvariants :=
  ⟨rfl, .atIdle rfl rfl rfl rfl, nofun, nofun, nofun, .of_unknown reg_reset rfl, rfl, rfl, rfl, rfl⟩

end Sys2Proof.Machine

/-! PROOFS. Memory and the order of the trigger (spec/20_memory.md R51, R56, R60;
spec/70_reset_and_hazards.md R250). -/

namespace Sys2Proof.Machine

/-! ## Memory -/

/-- No operation writes memory: a bus write goes to the engine's registers (R56), and the scanner only
reads. -/
theorem Ran.mem {s t : State} {i : Instr} (h : Ran s i t) : t.mem = s.mem := by
  cases h with
  | waitCompletes n w hw _ => rcases hw with rfl | rfl <;> simp
  | waitTimesOut n w hw _ _ => rcases hw with rfl | rfl <;> simp
  | waitHolds n _ _ => exact beginWait_mem s n
  | codeFound | codeSkipped | modeEnter | plainWrite | trigger | statusClear | modeExit => rfl

/-- Settles O46: the operation keeps the whole memory, so every address reads the same. -/
theorem operationsNeverWriteMemory : Obligations.OperationsNeverWriteMemory := by
  intro i s t h a
  rw [(ran_of_exec h).mem]

/-! ## The trace at the trigger -/

/-- The trigger stands at one place of the program, the first of step 9, and is issued from Configuring. -/
theorem issue_trigger {s : State} {p : Profile} (hs : SeqInv s) (hst : s.st ≠ .idle)
    (h : s.issue = some (.trigger p)) : s.st = .configuring ∧ s.pc = some ⟨9, 0⟩ := by
  rcases issue_cases hs hst h with ⟨-, -, hi⟩ | ⟨-, -, r, v, hev, htrigger, -⟩ | ⟨hc, hpc, -⟩ |
    ⟨-, -, -, hi⟩ | ⟨-, -, -, hi⟩ | ⟨-, -, hi⟩
  · cases hi
  · cases hev
    contradiction
  · exact ⟨hc, hpc⟩
  · cases hi
  · cases hi
  · cases hi

/-- Before the first operation of step `n` stand the whole steps before it. -/
theorem opsBefore_first (q : Request) (fwd bwd : Option Surface) (off : Nat) (m1 : Word) (n : Nat) :
    opsBefore q fwd bwd off m1 ⟨n, 0⟩ = (List.range n).flatMap (stepOps q fwd bwd off m1) := by
  simp [opsBefore]

/-- Only a wait that holds has its marker in the trace before its step is over. -/
theorem waitMarker_of_ne {s : State} (h : s.st ≠ .awaitingCompletion) (p : Pc) : waitMarker s p = [] :=
  if_neg fun hw => h hw.1

/-- Settles O56: the trigger is issued at the first place of step 9, and there the trace invariant lists
the steps before it with no wait marker. -/
theorem configurationPrecedesTrigger : Obligations.ConfigurationPrecedesTrigger := by
  intro s q p hs htrace hst hlatch hissue
  obtain ⟨hc, hpc⟩ := issue_trigger ((seqInv_envTurn s).mpr hs) (by rwa [envTurn_st]) hissue
  rw [envTurn_st] at hc
  rw [envTurn_pc] at hpc
  have hevents := htrace q hlatch
  rw [if_neg hst] at hevents
  obtain ⟨m1, hm1⟩ := hevents _ hpc
  have hmarker : waitMarker s ⟨9, 0⟩ = [] := waitMarker_of_ne (by simp [hc]) _
  exact ⟨m1, by rw [hm1, opsBefore_first, hmarker, List.append_nil]⟩

end Sys2Proof.Machine

/-! PROOFS. The fields of a word, and the word formats read back and rebuilt field by field
(spec/30_encoding.md R71 to R75). -/

namespace Sys2Proof

/-! ## Fields of a word -/

/-- A field placed in a word is read back from its place. -/
theorem extract_field_self {k n : Nat} (x : BitVec n) (h : k + n ≤ 32) :
    (zext32 x <<< k).extractLsb' k n = x := by
  ext i hi
  simp [show k + i < 32 by omega, BitVec.getLsbD_eq_getElem hi]

/-- The case of the lowest field, which stands with no shift. -/
theorem extract_low_field_self {n : Nat} (x : BitVec n) (h : n ≤ 32) :
    (zext32 x).extractLsb' 0 n = x := by
  simpa using extract_field_self (k := 0) x (by omega)

/-- A field is not seen outside its place. -/
theorem extract_field_other {k m n s : Nat} (x : BitVec m) (h : s + n ≤ k ∨ k + m ≤ s) :
    (zext32 x <<< k).extractLsb' s n = 0 := by
  ext i hi
  obtain h | h := h
  · simp [show s + i < k by omega]
  · simp [BitVec.getLsbD_of_ge x (s + i - k) (by omega)]

/-- The case of the lowest field. -/
theorem extract_low_field_other {m n s : Nat} (x : BitVec m) (h : m ≤ s) :
    (zext32 x).extractLsb' s n = 0 := by
  simpa using extract_field_other (k := 0) (n := n) x (.inr (by omega))

/-- A field of a field is a field of the word. -/
theorem extract_of_extract (w : Word) {s n t m : Nat} (h : t + m ≤ n) :
    (w.extractLsb' s n).extractLsb' t m = w.extractLsb' (s + t) m := by
  ext i hi
  simp [show t + i < n by omega, Nat.add_assoc]

/-- Two neighbouring fields of a word, each at its place, are one field at its place. -/
theorem field_or_field (w : Word) {k m n a : Nat} (h : n = k + m) :
    (zext32 (w.extractLsb' n a) <<< n) ||| (zext32 (w.extractLsb' k m) <<< k) =
      zext32 (w.extractLsb' k (a + m)) <<< k := by
  ext i hi
  simp only [BitVec.getElem_or, BitVec.getElem_shiftLeft, BitVec.getElem_setWidth,
    BitVec.getLsbD_extractLsb']
  grind

/-- The case in which the second field is the lowest. -/
theorem field_or_low_field (w : Word) (m a : Nat) :
    (zext32 (w.extractLsb' m a) <<< m) ||| zext32 (w.extractLsb' 0 m) =
      zext32 (w.extractLsb' 0 (a + m)) := by
  simpa using field_or_field w (k := 0) (m := m) (a := a) (by omega)

/-- A word whose field is zero shares no bit with the field's mask. -/
theorem and_mask_of_extract {w : Word} {k n : Nat} (h : w.extractLsb' k n = 0) :
    w &&& (zext32 (BitVec.allOnes n) <<< k) = 0 := by
  ext i hi
  have hbit := congrArg (fun x => x.getLsbD (i - k)) h
  simp only [BitVec.getLsbD_extractLsb'] at hbit
  simp only [BitVec.getElem_and, BitVec.getElem_shiftLeft, BitVec.getElem_setWidth,
    BitVec.getLsbD_allOnes]
  grind

/-- A multiple of `2^n` has zeros in the low `n` bits of its word. -/
theorem extract_low_ofNat_of_dvd {w n x : Nat} (hn : n ≤ w) (h : 2 ^ n ∣ x) :
    (BitVec.ofNat w x).extractLsb' 0 n = 0 := by
  apply BitVec.eq_of_toNat_eq
  simp [Nat.mod_mod_of_dvd _ (Nat.pow_dvd_pow 2 hn), Nat.mod_eq_zero_of_dvd h]

/-! ## A format's fields, read back from its word -/

theorem startCodeWord_eq (m : Byte) : startCodeWord m = (zext32 1#24 <<< 8) ||| zext32 m := rfl

@[simp] theorem startCodeWord_fixed (m : Byte) : (startCodeWord m).extractLsb' 8 24 = 1#24 := by
  rw [startCodeWord_eq, BitVec.extractLsb'_or, extract_field_self _ (by omega),
    extract_low_field_other _ (by omega)]
  rfl

@[simp] theorem startCodeWord_marker (m : Byte) : (startCodeWord m).extractLsb' 0 8 = m := by
  simp (disch := omega) [startCodeWord_eq, BitVec.extractLsb'_or, extract_low_field_self]

@[simp] theorem iqWord_reserved (tag : BitVec 7) (v : Byte) :
    (iqWord tag v).extractLsb' 15 17 = 0 := by
  simp (disch := omega) [iqWord, BitVec.extractLsb'_or, extract_field_other, extract_low_field_other]

@[simp] theorem iqWord_tag (tag : BitVec 7) (v : Byte) : (iqWord tag v).extractLsb' 8 7 = tag := by
  simp (disch := omega) [iqWord, BitVec.extractLsb'_or, extract_field_self, extract_low_field_other]

@[simp] theorem iqWord_value (tag : BitVec 7) (v : Byte) : (iqWord tag v).extractLsb' 0 8 = v := by
  simp (disch := omega) [iqWord, BitVec.extractLsb'_or, extract_field_other, extract_low_field_self]

@[simp] theorem szmbWord_reserved (w h : BitVec 8) : (szmbWord w h).extractLsb' 16 16 = 0 := by
  simp (disch := omega) [szmbWord, BitVec.extractLsb'_or, extract_field_other, extract_low_field_other]

@[simp] theorem szmbWord_width (w h : BitVec 8) : (szmbWord w h).extractLsb' 8 8 = w := by
  simp (disch := omega) [szmbWord, BitVec.extractLsb'_or, extract_field_self, extract_low_field_other]

@[simp] theorem szmbWord_height (w h : BitVec 8) : (szmbWord w h).extractLsb' 0 8 = h := by
  simp (disch := omega) [szmbWord, BitVec.extractLsb'_or, extract_field_other, extract_low_field_self]

@[simp] theorem szpxWord_width (w h : BitVec 12) : (szpxWord w h).extractLsb' 16 12 = w := by
  simp (disch := omega) [szpxWord, BitVec.extractLsb'_or, extract_field_self, extract_low_field_other]

@[simp] theorem szpxWord_height (w h : BitVec 12) : (szpxWord w h).extractLsb' 0 12 = h := by
  simp (disch := omega) [szpxWord, BitVec.extractLsb'_or, extract_field_other, extract_low_field_self]

@[simp] theorem PicHdr.ofWord_word (h : PicHdr) : PicHdr.ofWord h.word = h := by
  simp (disch := omega) [PicHdr.ofWord, PicHdr.word, BitVec.extractLsb'_or, extract_field_self,
    extract_field_other, extract_low_field_self, extract_low_field_other]

/-- Bit 6 of an intra entry's tag is one, and the index stands below it (R72). -/
theorem intraTag_fields (i : BitVec 6) :
    (intraTag i).extractLsb' 6 1 = 1#1 ∧ (intraTag i).extractLsb' 0 6 = i := by
  revert i
  decide

theorem nonIntraTag_fields (i : BitVec 6) :
    (nonIntraTag i).extractLsb' 6 1 = 0#1 ∧ (nonIntraTag i).extractLsb' 0 6 = i := by
  revert i
  decide

/-! ## A word, rebuilt from the fields of its format -/

theorem startCodeWord_of_fields {w : Word} (h : w.extractLsb' 8 24 = 1#24) :
    startCodeWord (w.extractLsb' 0 8) = w := by
  rw [startCodeWord_eq, ← h, field_or_low_field]
  simp

theorem iqWord_of_fields {w : Word} (h : w.extractLsb' 15 17 = 0) :
    iqWord (w.extractLsb' 8 7) (w.extractLsb' 0 8) = w := by
  rw [iqWord, field_or_low_field]
  simpa [h] using field_or_low_field w 15 17

theorem szmbWord_of_fields {w : Word} (h : w.extractLsb' 16 16 = 0) :
    szmbWord (w.extractLsb' 8 8) (w.extractLsb' 0 8) = w := by
  rw [szmbWord, field_or_low_field]
  simpa [h] using field_or_low_field w 16 16

/-- The four groups of R86's zero bits in a frame-size word: above each size, and its low four bits. -/
theorem szpx_gaps {w : Word} (h : w &&& 0xF00FF00F#32 = 0) :
    w.extractLsb' 28 4 = 0 ∧ w.extractLsb' 16 4 = 0 ∧ w.extractLsb' 12 4 = 0 ∧
      w.extractLsb' 0 4 = 0 := by
  have gap (k : Nat) (hk : (0xF00FF00F#32).extractLsb' k 4 = BitVec.allOnes 4) :
      w.extractLsb' k 4 = 0 := by
    have hand : w.extractLsb' k 4 &&& (0xF00FF00F#32).extractLsb' k 4 = 0 := by
      rw [← BitVec.extractLsb'_and, h]
      simp
    rwa [hk, BitVec.and_allOnes] at hand
  exact ⟨gap 28 rfl, gap 16 rfl, gap 12 rfl, gap 0 rfl⟩

theorem szpxWord_of_fields {w : Word} (h28 : w.extractLsb' 28 4 = 0) (h12 : w.extractLsb' 12 4 = 0) :
    szpxWord (w.extractLsb' 16 12) (w.extractLsb' 0 12) = w := by
  have hhigh : zext32 (w.extractLsb' 16 12) <<< 16 = zext32 (w.extractLsb' 16 16) <<< 16 := by
    simpa [h28] using field_or_field w (k := 16) (m := 12) (n := 28) (a := 4) rfl
  have hlow : zext32 (w.extractLsb' 0 12) = zext32 (w.extractLsb' 0 16) := by
    simpa [h12] using field_or_low_field w 12 4
  rw [szpxWord, hhigh, hlow, field_or_low_field]
  simp

/-- The fifteen fields of R75 leave no gap, so they join from the top down to the whole word. -/
@[simp] theorem PicHdr.word_ofWord (w : Word) : (PicHdr.ofWord w).word = w := by
  simp (disch := omega) only [PicHdr.ofWord, PicHdr.word, field_or_field, field_or_low_field]
  simp

theorem intraTag_of_fields {tag : BitVec 7} (h : tag.extractLsb' 6 1 = 1#1) :
    intraTag (tag.extractLsb' 0 6) = tag := by
  revert tag
  decide

theorem nonIntraTag_of_fields {tag : BitVec 7} (h : tag.extractLsb' 6 1 ≠ 1#1) :
    nonIntraTag (tag.extractLsb' 0 6) = tag := by
  revert tag
  decide

end Sys2Proof

/-! PROOFS. The decoder and the encoder of one event are inverse to each other (spec/30_encoding.md R85 to
R87). -/

namespace Sys2Proof

/-! ## Encoding, then decoding -/

theorem decodeWindow_startCodeWord (m : Byte) :
    decodeWindow (startCodeWord m) =
      .ok (if qualifying m then .scQualifying m else .scNonqualifying m) := by
  simp only [decodeWindow, startCodeWord_fixed, startCodeWord_marker, if_true]
  split <;> rfl

/-- Bit 6 of the tag tells the two matrices apart (R72). -/
theorem decodeWrite_iqWord (tag : BitVec 7) (v : Byte) :
    decodeWrite .iq (iqWord tag v) =
      .ok (if tag.extractLsb' 6 1 = 1 then .iqIntra (tag.extractLsb' 0 6) v
        else .iqNonintra (tag.extractLsb' 0 6) v) := by
  have hclass : (iqWord tag v).extractLsb' 14 1 = tag.extractLsb' 6 1 := by
    rw [← extract_of_extract (iqWord tag v) (s := 8) (n := 7) (t := 6) (by omega), iqWord_tag]
  have hindex : (iqWord tag v).extractLsb' 8 6 = tag.extractLsb' 0 6 := by
    rw [← extract_of_extract (iqWord tag v) (s := 8) (n := 7) (t := 0) (by omega), iqWord_tag]
  simp only [decodeWrite, iqWord_reserved, hclass, hindex, iqWord_value, ne_eq, not_true, if_false]
  split <;> rfl

theorem decodeWrite_szpxWord {w h : BitVec 12} (hwf : (Instr.sizePx w h).wf = true) :
    decodeWrite .frameSize (szpxWord w h) = .ok (.sizePx w h) := by
  have hgaps : szpxWord w h &&& 0xF00FF00F#32 = 0 := Laws.RowWord.sizePx w h hwf _ rfl
  simp only [decodeWrite, hgaps, szpxWord_width, szpxWord_height, ne_eq, not_true, if_false]

/-- A well-formed operation is read back from its event. -/
theorem decode_encode {i : Instr} (hwf : i.wf = true) : decode (encode i) = .ok i := by
  cases i with
  | scQualifying m =>
    have hm : qualifying m = true := hwf
    simp [encode, decode, decodeWindow_startCodeWord, hm]
  | scNonqualifying m =>
    have hm : qualifying m = false := by simpa [Instr.wf] using hwf
    simp [encode, decode, decodeWindow_startCodeWord, hm]
  | iqIntra j v =>
    obtain ⟨hclass, hindex⟩ := intraTag_fields j
    rw [encode, decode_write_offset, decodeWrite_iqWord, hclass, hindex]
    rfl
  | iqNonintra j v =>
    obtain ⟨hclass, hindex⟩ := nonIntraTag_fields j
    rw [encode, decode_write_offset, decodeWrite_iqWord, hclass, hindex]
    rfl
  | sizePx w h => rw [encode, decode_write_offset, decodeWrite_szpxWord hwf]
  | vldOffset b | vldLen b =>
    have hb : b.extractLsb' 0 3 = 0 := by simpa [Instr.wf] using hwf
    simp [encode, decodeWrite, hb]
  | trigger p => cases p <;> simp [encode, decodeWrite, triggerWord, Config.trigger_ne]
  | wait n => simpa [encode, decode, Instr.wf] using hwf
  | modeEnter r | modeExit r => simp [encode, decodeMode]
  | sizeMb w h | picHdr h | prime | statusClear | fwdLuma a | fwdChroma a | bwdLuma a | bwdChroma a
  | recLuma a | recChroma a | rotLuma a | rotChroma a | vldEnd a | vldAddr w =>
    simp [encode, decodeWrite]

/-- Settles O5: the words' fields are read back from their places, one case for each row. -/
theorem decodeEncodeRoundTrip : Obligations.DecodeEncodeRoundTrip := fun _ => decode_encode

/-! ## Decoding, then encoding -/

/-- An answer behind a rejecting check has passed it. -/
theorem ok_of_unless {c : Prop} [Decidable c] {e : Reject} {x : Except Reject Instr} {i : Instr}
    (h : (if c then .error e else x) = .ok i) : ¬ c ∧ x = .ok i := by
  split at h
  · cases h
  · exact ⟨‹_›, h⟩

/-- An answer that is given only under a condition has it. -/
theorem ok_of_when {c : Prop} [Decidable c] {e : Reject} {x : Except Reject Instr} {i : Instr}
    (h : (if c then x else .error e) = .ok i) : c ∧ x = .ok i := by
  split at h
  · exact ⟨‹_›, h⟩
  · cases h

theorem encode_of_decodeWindow {w : Word} {i : Instr} (h : decodeWindow w = .ok i) :
    encode i = .window w ∧ i.wf = true := by
  obtain ⟨hfixed, hmarker⟩ := ok_of_when h
  have hw := congrArg Event.window (startCodeWord_of_fields hfixed)
  by_cases hq : qualifying (w.extractLsb' 0 8) = true
  · obtain rfl : Instr.scQualifying _ = i := by simpa [hq] using hmarker
    exact ⟨hw, hq⟩
  · obtain rfl : Instr.scNonqualifying _ = i := by simpa [hq] using hmarker
    exact ⟨hw, by simpa [Instr.wf] using hq⟩

theorem encode_of_decodeWrite_iq {w : Word} {i : Instr} (h : decodeWrite .iq w = .ok i) :
    encode i = .write (Config.offset .iq) w ∧ i.wf = true := by
  have hw := iqWord_of_fields (not_not.mp (ok_of_unless h).1)
  rw [← hw, decodeWrite_iqWord] at h
  split at h <;> cases h
  · next hclass => exact ⟨by rw [encode, intraTag_of_fields hclass, hw], rfl⟩
  · next hclass => exact ⟨by rw [encode, nonIntraTag_of_fields hclass, hw], rfl⟩

theorem encode_of_decodeWrite_frameSize {w : Word} {i : Instr} (h : decodeWrite .frameSize w = .ok i) :
    encode i = .write (Config.offset .frameSize) w ∧ i.wf = true := by
  obtain ⟨hz, ⟨⟩⟩ := ok_of_unless h
  obtain ⟨h28, h16, h12, h0⟩ := szpx_gaps (not_not.mp hz)
  refine ⟨congrArg (Event.write _) (szpxWord_of_fields h28 h12), ?_⟩
  simp only [Instr.wf, Bool.and_eq_true, decide_eq_true_eq]
  exact ⟨by rw [extract_of_extract w (by omega), h16], by rw [extract_of_extract w (by omega), h0]⟩

/-- A write that decodes is the event of what it decodes to. -/
theorem encode_of_decodeWrite {r : Reg} {w : Word} {i : Instr} (h : decodeWrite r w = .ok i) :
    encode i = .write (Config.offset r) w ∧ i.wf = true := by
  cases r with
  | iq => exact encode_of_decodeWrite_iq h
  | frameSize => exact encode_of_decodeWrite_frameSize h
  | mode => cases h
  | mbSize =>
    obtain ⟨hz, ⟨⟩⟩ := ok_of_unless h
    exact ⟨congrArg (Event.write _) (szmbWord_of_fields (not_not.mp hz)), rfl⟩
  | picHdr =>
    cases h
    exact ⟨congrArg (Event.write _) (PicHdr.word_ofWord w), rfl⟩
  | vldOffset | vldLen =>
    obtain ⟨hz, ⟨⟩⟩ := ok_of_unless h
    exact ⟨rfl, decide_eq_true (not_not.mp hz)⟩
  | prime | status =>
    obtain ⟨rfl, ⟨⟩⟩ := ok_of_when h
    exact ⟨rfl, rfl⟩
  | trigger =>
    by_cases hmpeg1 : w = Config.triggerMpeg1
    · obtain rfl : Instr.trigger .mpeg1 = i := by simpa [decodeWrite, hmpeg1] using h
      exact ⟨congrArg (Event.write _) hmpeg1.symm, rfl⟩
    · simp only [decodeWrite, if_neg hmpeg1] at h
      obtain ⟨rfl, ⟨⟩⟩ := ok_of_when h
      exact ⟨rfl, rfl⟩
  | fwdLuma | fwdChroma | bwdLuma | bwdChroma | recLuma | recChroma | rotLuma | rotChroma
  | vldEnd | vldAddr =>
    cases h
    exact ⟨rfl, rfl⟩

theorem encode_of_decodeMode {last : Bool} {r w : Word} {i : Instr} (h : decodeMode last r w = .ok i) :
    encode i = .rmw last (Config.offset .mode) r w ∧ i.wf = true := by
  cases last <;>
  · obtain ⟨rfl, ⟨⟩⟩ := ok_of_when h
    exact ⟨rfl, rfl⟩

/-- An event that decodes is the event of the well-formed operation it decodes to. -/
theorem encode_of_decode {ev : Event} {i : Instr} (h : decode ev = .ok i) :
    encode i = ev ∧ i.wf = true := by
  cases ev with
  | window w => exact encode_of_decodeWindow h
  | write off w =>
    cases hr : regAt off with
    | none => simp [decode, hr] at h
    | some r =>
      obtain rfl := offset_of_regAt hr
      exact encode_of_decodeWrite (by rwa [decode_write_offset] at h)
  | rmw last off r w =>
    cases hr : regAt off with
    | none => simp [decode, hr] at h
    | some r' =>
      obtain rfl := offset_of_regAt hr
      cases r' with
      | mode => exact encode_of_decodeMode (by rwa [decode_rmw_mode] at h)
      | _ => simp [decode] at h
  | wait n =>
    obtain ⟨hn, ⟨⟩⟩ := ok_of_when h
    exact ⟨rfl, decide_eq_true hn⟩

/-- Settles O6: the offset gives the register back, and each format's fields give its word back. -/
theorem decodedEventIsEncoded : Obligations.DecodedEventIsEncoded := fun _ _ => encode_of_decode

/-! ## Vectors, and the bits at zero -/

theorem decode_write_unknown {off : Word} (h : ∀ r, Config.offset r ≠ off) (w : Word) :
    decode (.write off w) = .error .unknownOffset := by
  cases hr : regAt off with
  | none => simp [decode, hr]
  | some r => exact absurd (offset_of_regAt hr) (h r)

/-- Settles O4: the offset names the register, and then each word is a closed one. -/
theorem decodedWordsMatchVectors : Obligations.DecodedWordsMatchVectors := by
  unfold Obligations.DecodedWordsMatchVectors
  simp only [decode_write_offset]
  exact ⟨by decide, by decide, by decide, by decide, by decide, by decide, by decide, by decide,
    by decide, by decide, by decide, by decide, by decide, by decide, fun _ w h => decode_write_unknown h w⟩

/-- A word that decodes as a write to a register has R86's bits at zero. -/
theorem zeroBits_of_decodeWrite {r : Reg} {w : Word} {i : Instr} (h : decodeWrite r w = .ok i) :
    w &&& Machine.zeroBits r = 0 := by
  cases r with
  | iq | mbSize | vldOffset | vldLen => exact and_mask_of_extract (not_not.mp (ok_of_unless h).1)
  | frameSize => exact not_not.mp (ok_of_unless h).1
  | _ => exact BitVec.and_zero

/-- The word that a well-formed operation writes has R86's bits at zero: it decodes, and a word with one of
them set does not. -/
theorem zeroBits_of_wf {i : Instr} (h : i.wf = true) {r : Reg} {w : Word}
    (hw : encode i = .write (Config.offset r) w) : w &&& Machine.zeroBits r = 0 := by
  have hdecode := decode_encode h
  rw [hw, decode_write_offset] at hdecode
  exact zeroBits_of_decodeWrite hdecode

end Sys2Proof

/-! PROOFS. The operations before the DFE are well formed (spec/30_encoding.md R86), and the window's words
(R77, R78; spec/42_sequencer.md R168 to R170). -/

namespace Sys2Proof.Machine

/-! ## The window's words -/

theorem vldOffsetBits_toNat {off : Nat} (h : off ≤ Config.vbvCapacity) :
    (vldOffsetBits off).toNat = off * 8 := by
  have := Config.vbvCapacity_bounds
  rw [vldOffsetBits, BitVec.toNat_ofNat]
  omega

/-- Settles O15: the offset and the length are both at most `VBV_CAPACITY`, whose bits fit in a word. -/
theorem windowWordsExact : Obligations.WindowWordsExact := by
  intro q off hlen hoff
  exact ⟨vldOffsetBits_toNat (hoff.trans hlen), vldOffsetBits_toNat ((Nat.sub_le _ _).trans hlen),
    BitVec.toNat_ofNat _ _⟩

/-! ## The program's operations -/

theorem qtabOps_wf (q : Request) : ∀ i ∈ qtabOps q, i.wf = true := by
  simp only [qtabOps, List.mem_append, List.mem_map]
  rintro _ (⟨j, -, rfl⟩ | ⟨j, -, rfl⟩) <;> rfl

/-- The pixel sizes are multiples of 16, also where their fields cut them (entry 25). -/
theorem sizeOps_wf (q : Request) : ∀ i ∈ sizeOps q, i.wf = true := by
  have hpx (x : Nat) : (BitVec.ofNat 12 (16 * x)).extractLsb' 0 4 = 0 :=
    extract_low_ofNat_of_dvd (by omega) (Nat.dvd_mul_right _ _)
  simp [sizeOps, Instr.wf, hpx]

theorem fwdOps_wf (f : Option Surface) : ∀ i ∈ fwdOps f, i.wf = true := by
  cases f <;> simp [fwdOps, Instr.wf]

theorem bwdOps_wf (b : Option Surface) : ∀ i ∈ bwdOps b, i.wf = true := by
  cases b <;> simp [bwdOps, Instr.wf]

theorem outOps_wf (o : Surface) : ∀ i ∈ outOps o, i.wf = true := by
  simp [outOps, Instr.wf]

/-- The counts in bits are multiples of 8. -/
theorem vldOps_wf (q : Request) (off : Nat) : ∀ i ∈ vldOps q off, i.wf = true := by
  have hbits (x : Nat) : (vldOffsetBits x).extractLsb' 0 3 = 0 :=
    extract_low_ofNat_of_dvd (by omega) (Nat.dvd_mul_left _ _)
  have hlen : (vldLenBits q off).extractLsb' 0 3 = 0 := hbits (q.len - off)
  simp [vldOps, Instr.wf, hbits, hlen]

/-- Every operation of a step is well formed, whatever the request latch holds. -/
theorem stepOps_wf {q : Request} {fwd bwd : Option Surface} {off : Nat} {m : Word} {n : Nat} {i : Instr}
    (h : i ∈ stepOps q fwd bwd off m n) : i.wf = true := by
  unfold stepOps at h
  split at h
  case h_2 => exact qtabOps_wf q i h
  case h_3 => exact sizeOps_wf q i h
  case h_6 => exact (List.mem_append.mp h).elim (fwdOps_wf fwd i) (bwdOps_wf bwd i)
  case h_7 => exact outOps_wf q.output i h
  case h_8 => exact vldOps_wf q off i h
  case h_13 => cases h
  all_goals
    obtain rfl := List.mem_singleton.mp h
    rfl

/-- The program is its twelve steps in order. -/
theorem program_eq_stepOps (q : Request) (fwd bwd : Option Surface) (off : Nat) (m1 m12 : Word) :
    program q fwd bwd off m1 m12 =
      (List.range' 1 11).flatMap (stepOps q fwd bwd off m1) ++ stepOps q fwd bwd off m12 12 := by
  simp [program, stepOps, List.range']

theorem program_wf {q : Request} {fwd bwd : Option Surface} {off : Nat} {m1 m12 : Word} {i : Instr}
    (h : i ∈ program q fwd bwd off m1 m12) : i.wf = true := by
  rw [program_eq_stepOps, List.mem_append, List.mem_flatMap] at h
  obtain ⟨n, -, h⟩ | h := h <;> exact stepOps_wf h

/-! ## What the DFE does next -/

theorem issue_wf {s : State} {i : Instr} (h : s.issue = some i) : i.wf = true := by
  obtain ⟨q, p, -, -, h⟩ := issue_eq_some h
  exact stepOps_wf (List.mem_of_getElem? h)

/-- The scanner's operations are decoded ones. -/
theorem scanActivity_wf {m : List Host.Cell} {q : Request} {sc : Scanner} {i : Instr}
    (h : scanActivity m q sc = .instr i) : i.wf = true := by
  rcases scanActivity_cases m q sc with ⟨-, hs⟩ | ⟨-, -, hs⟩ |
    ⟨-, -, w, -, b, ⟨hd, hs⟩ | ⟨hd, hs⟩⟩ | ⟨f, hs⟩ | hs <;> cases h.symm.trans hs
  · exact (encode_of_decodeWindow hd).2
  · exact (encode_of_decodeWindow hd).2

theorem activity_wf {s : State} {i : Instr} (h : s.activity = .instr i) : i.wf = true := by
  rcases activity_cases s with ⟨-, -, ha⟩ | ⟨-, q, sc, -, -, ha⟩ | ⟨-, j, hj, ha⟩ | ha
  · cases h.symm.trans ha
  · exact scanActivity_wf (ha.symm.trans h)
  · cases h.symm.trans ha
    exact issue_wf hj
  · cases h.symm.trans ha

/-- Settles O7: the sequencer's operations are the program's, the scanner's are decoded, and R86's bits
follow from well-formedness by the round trip. -/
theorem issuedOperationsWellFormed : Obligations.IssuedOperationsWellFormed :=
  fun _ _ h => ⟨activity_wf h, fun _ _ hw => zeroBits_of_wf (activity_wf h) hw⟩

end Sys2Proof.Machine

/-! PROOFS. The order of a DFE trace (spec/30_encoding.md R87, spec/42_sequencer.md R150). -/

namespace Sys2Proof.Machine

/-! ## The program's places -/

theorem qtabOps_places (q : Request) :
    (qtabOps q).map place = ((List.range 128).map (1 + ·)).map some := by
  simp only [qtabOps, List.map_append, List.map_map]
  rfl

theorem fwdOps_places (f : Option Surface) :
    (fwdOps f).map place = (if f.isSome then [133, 134] else []).map some := by cases f <;> rfl

theorem bwdOps_places (b : Option Surface) :
    (bwdOps b).map place = (if b.isSome then [135, 136] else []).map some := by cases b <;> rfl

/-- The operations of a whole transaction stand at all of its places. -/
theorem program_places (q : Request) (fwd bwd : Option Surface) (off : Nat) (m1 m12 : Word) :
    (program q fwd bwd off m1 m12).map place = (placesOf fwd.isSome bwd.isSome).map some := by
  have hfirst : List.range 133 = [0] ++ (List.range 128).map (1 + ·) ++ [129, 130, 131, 132] := by
    decide
  simp only [program, placesOf, hfirst, List.map_append, qtabOps_places, fwdOps_places, bwdOps_places,
    List.append_assoc]
  rfl

/-! ## Operations in order -/

/-- Operations are in order when their places begin those of a whole transaction. -/
theorem isDfeOrder_iff {l : List Instr} :
    isDfeOrder l = true ↔ ∃ fwd bwd, l.map place <+: (placesOf fwd bwd).map some := by
  simp only [isDfeOrder, List.any_cons, List.any_nil, Bool.or_false, Bool.or_eq_true,
    List.isPrefixOf_iff_prefix, Bool.exists_bool]
  tauto

theorem isDfeOrder_program_take (q : Request) (fwd bwd : Option Surface) (off : Nat) (m1 m12 : Word)
    (n : Nat) : isDfeOrder ((program q fwd bwd off m1 m12).take n) = true := by
  refine isDfeOrder_iff.mpr ⟨fwd.isSome, bwd.isSome, ?_⟩
  rw [List.map_take, program_places]
  exact List.take_prefix _ _

/-- Each of the four place lists ascends, and stands above the one before it. -/
theorem placesOf_sorted (fwd bwd : Bool) : (placesOf fwd bwd).Pairwise (· < ·) := by
  have hlast : ((List.range 12).map (137 + ·)).Pairwise (· < ·) := by decide
  simp only [placesOf, List.pairwise_append, List.pairwise_lt_range, hlast]
  grind

/-- Operations in order all have places, which begin those of a whole transaction. -/
theorem places_of_isDfeOrder {l : List Instr} (h : isDfeOrder l = true) :
    ∃ fwd bwd ks, ks <+: placesOf fwd bwd ∧ l.map place = ks.map some := by
  obtain ⟨fwd, bwd, h⟩ := isDfeOrder_iff.mp h
  refine ⟨fwd, bwd, _, List.take_prefix l.length _, ?_⟩
  rw [List.map_take]
  simpa using List.prefix_iff_eq_take.mp h

theorem place_of_isDfeOrder {l : List Instr} (h : isDfeOrder l = true) {i : Instr} (hi : i ∈ l) :
    ∃ k, place i = some k := by
  obtain ⟨_, _, ks, -, hks⟩ := places_of_isDfeOrder h
  obtain ⟨k, -, hk⟩ := List.mem_map.mp (hks ▸ List.mem_map_of_mem (f := place) hi)
  exact ⟨k, hk.symm⟩

theorem place_head_of_isDfeOrder {i : Instr} {l : List Instr} (h : isDfeOrder (i :: l) = true) :
    place i = some 0 := by
  obtain ⟨fwd, bwd, h⟩ := isDfeOrder_iff.mp h
  exact (List.cons_prefix_cons.mp h).1

/-- `i` stands before `j` in R150's program, where both have a place there. -/
def placedBefore (i j : Instr) : Prop := ∀ a ∈ place i, ∀ b ∈ place j, a < b

theorem sorted_of_isDfeOrder {l : List Instr} (h : isDfeOrder l = true) : l.Pairwise placedBefore := by
  obtain ⟨fwd, bwd, ks, hbegin, hks⟩ := places_of_isDfeOrder h
  have hsorted := (placesOf_sorted fwd bwd).sublist hbegin.sublist
  have hplaces : (l.map place).Pairwise fun a b => ∀ x ∈ a, ∀ y ∈ b, x < y := by
    rw [hks, List.pairwise_map]
    exact hsorted.imp fun h => by simpa using h
  exact (List.pairwise_map (f := place)).mp hplaces

/-- D13's order: the trigger has place 145, and the window's address write the place before it. -/
theorem not_isDfeOrder_trigger_vldAddr (l1 l2 l3 : List Instr) (p : Profile) (w : Word) :
    isDfeOrder (l1 ++ .trigger p :: l2 ++ .vldAddr w :: l3) = false := by
  refine Bool.eq_false_iff.mpr fun h => ?_
  obtain ⟨-, -, hbefore⟩ := List.pairwise_append.mp (sorted_of_isDfeOrder h)
  exact absurd (hbefore (.trigger p) (by simp) (.vldAddr w) (by simp) 145 rfl 144 rfl) (by decide)

end Sys2Proof.Machine

/-! PROOFS. The decoder of a raw trace (spec/30_encoding.md R85, R87): it reads back the trace of
well-formed operations in order, and nothing else. -/

namespace Sys2Proof

/-! ## One event at a time -/

/-- The raw events of one event (R16, R85): a start code is no bus event. -/
def Event.raw : Event → List RawEvent
  | .window _ => []
  | .write off w => [.write off w]
  | .rmw _ off r w => [.read off r, .write off w]
  | .wait n => [.wait n]

/-- Whether an event can stand at a trace's first place, or at a later one (R85): a start code stands at
none, and a read-modify-write at the first place is not the one that ends its transaction. -/
def Event.fits (first : Bool) : Event → Prop
  | .window _ => False
  | .rmw last _ _ _ => last = !first
  | .write _ _ | .wait _ => True

theorem decodeEvents_append {first : Bool} {ev : Event} {i : Instr} {rest : List RawEvent}
    {is : List Instr} (hfits : ev.fits first) (hi : decode ev = .ok i)
    (hrest : decodeEvents false rest = .ok is) : decodeEvents first (ev.raw ++ rest) = .ok (i :: is) := by
  cases ev with
  | window w => cases hfits
  | rmw last off r w =>
    obtain rfl : last = !first := hfits
    simp [Event.raw, decodeEvents, hi, hrest]
  | write off w | wait n => simp [Event.raw, decodeEvents, hi, hrest]

/-- What decoding a raw trace can do: it is empty, or its first event decodes and then the rest does. -/
theorem decodeEvents_cases {first : Bool} {raw : List RawEvent} {l : List Instr}
    (h : decodeEvents first raw = .ok l) :
    (raw = [] ∧ l = []) ∨ ∃ ev i rest is, raw = ev.raw ++ rest ∧ l = i :: is ∧ decode ev = .ok i ∧
      decodeEvents false rest = .ok is := by
  unfold decodeEvents at h
  split at h
  case h_1 => cases h; exact .inl ⟨rfl, rfl⟩
  case h_2 off r off' w rest =>
    split at h
    case isFalse => cases h
    case isTrue hoff =>
      subst hoff
      split at h <;> cases h
      exact .inr ⟨.rmw (!first) off r w, _, rest, _, rfl, rfl, ‹_›, ‹_›⟩
  case h_3 => cases h
  case h_4 off w rest =>
    split at h <;> cases h
    exact .inr ⟨.write off w, _, rest, _, rfl, rfl, ‹_›, ‹_›⟩
  case h_5 n rest =>
    split at h <;> cases h
    exact .inr ⟨.wait n, _, rest, _, rfl, rfl, ‹_›, ‹_›⟩

theorem decodeTrace_of_isDfeOrder {raw : List RawEvent} {l : List Instr}
    (h : decodeEvents true raw = .ok l) (horder : isDfeOrder l = true) : decodeTrace raw = .ok l := by
  simp [decodeTrace, h, horder]

theorem decodeTrace_wrongOrder {raw : List RawEvent} {l : List Instr}
    (h : decodeEvents true raw = .ok l) (horder : isDfeOrder l = false) :
    decodeTrace raw = .error .wrongOrder := by
  simp [decodeTrace, h, horder]

/-- What an accepted trace has passed. -/
theorem decodeTrace_ok {raw : List RawEvent} {l : List Instr} (h : decodeTrace raw = .ok l) :
    decodeEvents true raw = .ok l ∧ isDfeOrder l = true := by
  unfold decodeTrace at h
  split at h
  · split at h <;> cases h
    exact ⟨‹_›, ‹_›⟩
  · cases h

end Sys2Proof

namespace Sys2Proof.Machine

/-! ## The raw trace of operations -/

/-- The bus events of an operation, with the registers' offsets, are the raw events of its event. -/
theorem busEvents_raw (i : Instr) : (busEvents i).map BusEvent.raw = (encode i).raw := by
  cases i <;> rfl

theorem rawTrace_cons (i : Instr) (l : List Instr) :
    ((i :: l).flatMap busEvents).map BusEvent.raw =
      (encode i).raw ++ (l.flatMap busEvents).map BusEvent.raw := by
  rw [List.flatMap_cons, List.map_append, busEvents_raw]

theorem fits_first {i : Instr} (h : place i = some 0) : (encode i).fits true := by
  cases i with
  | modeEnter r => rfl
  | _ => simp [place] at h

theorem fits_later {i : Instr} {k : Nat} (h : place i = some k) (hk : 0 < k) :
    (encode i).fits false := by
  cases i with
  | scQualifying m | scNonqualifying m => cases h
  | modeEnter r => cases h; contradiction
  | modeExit r => rfl
  | _ => trivial

theorem decodeEvents_later {l : List Instr} (hwf : ∀ i ∈ l, i.wf = true)
    (hfits : ∀ i ∈ l, (encode i).fits false) :
    decodeEvents false ((l.flatMap busEvents).map BusEvent.raw) = .ok l := by
  induction l with
  | nil => rfl
  | cons i l ih =>
    rw [List.forall_mem_cons] at hwf hfits
    obtain ⟨hwf, hwfs⟩ := hwf
    obtain ⟨hfit, hfits⟩ := hfits
    rw [rawTrace_cons]
    exact decodeEvents_append hfit (decode_encode hwf) (ih hwfs hfits)

/-- The raw trace of well-formed operations in order decodes to them: only the first of them is at place 0,
so only it can be the mode entry. -/
theorem decodeTrace_rawTrace {l : List Instr} (horder : isDfeOrder l = true)
    (hwf : ∀ i ∈ l, i.wf = true) : decodeTrace ((l.flatMap busEvents).map BusEvent.raw) = .ok l := by
  refine decodeTrace_of_isDfeOrder ?_ horder
  cases l with
  | nil => rfl
  | cons i l =>
    have hzero := place_head_of_isDfeOrder horder
    obtain ⟨hbefore, -⟩ := List.pairwise_cons.mp (sorted_of_isDfeOrder horder)
    obtain ⟨hwf, hwfs⟩ := List.forall_mem_cons.mp hwf
    rw [rawTrace_cons]
    refine decodeEvents_append (fits_first hzero) (decode_encode hwf)
      (decodeEvents_later hwfs fun j hj => ?_)
    obtain ⟨k, hk⟩ := place_of_isDfeOrder horder (List.mem_cons_of_mem i hj)
    exact fits_later hk (hbefore j hj 0 hzero k hk)

/-- A raw trace that decodes event by event is the trace of what it decodes to. -/
theorem rawTrace_of_decodeEvents {first : Bool} {raw : List RawEvent} {l : List Instr}
    (h : decodeEvents first raw = .ok l) : raw = (l.flatMap busEvents).map BusEvent.raw := by
  induction l generalizing first raw with
  | nil =>
    obtain ⟨hraw, -⟩ | ⟨_, _, _, _, -, hl, -⟩ := decodeEvents_cases h
    · exact hraw
    · cases hl
  | cons i l ih =>
    obtain ⟨-, hl⟩ | ⟨ev, _, rest, _, rfl, ⟨⟩, hi, hrest⟩ := decodeEvents_cases h
    · cases hl
    · obtain ⟨hev, -⟩ := encode_of_decode hi
      rw [rawTrace_cons, hev, ← ih hrest]

/-! ## Traces of a transaction -/

/-- Settles O8: the beginning of a program is in order and well formed, so its trace decodes to it. -/
theorem traceDecodesToProgram : Obligations.TraceDecodesToProgram := by
  intro q fwd bwd off m1 m12 n
  exact decodeTrace_rawTrace (isDfeOrder_program_take q fwd bwd off m1 m12 n)
    fun i hi => program_wf (List.mem_of_mem_take hi)

/-- D13: a trigger's place is not the first. -/
theorem decodeTrace_trigger (p : Profile) :
    decodeTrace [.write (Config.offset .trigger) (triggerWord p)] = .error .wrongOrder := by
  have hevents : decodeEvents true [.write (Config.offset .trigger) (triggerWord p)] =
      .ok [.trigger p] :=
    decodeEvents_append (ev := encode (.trigger p)) trivial (decode_encode rfl) rfl
  refine decodeTrace_wrongOrder hevents (Bool.eq_false_iff.mpr fun h => ?_)
  exact absurd (place_head_of_isDfeOrder h) nofun

/-- Settles O9: the program's places are those of a whole transaction, these ascend, and the trace decoder
checks the events one by one and then the order. -/
theorem programHasDfeOrder : Obligations.ProgramHasDfeOrder := by
  refine ⟨isDfeOrder_program_take, not_isDfeOrder_trigger_vldAddr, decodeTrace_trigger,
    fun _ _ => decodeTrace_wrongOrder, fun raw is h => ?_⟩
  obtain ⟨hevents, horder⟩ := decodeTrace_ok h
  exact ⟨horder, rawTrace_of_decodeEvents hevents⟩

end Sys2Proof.Machine

/-! PROOFS. The scan over the bytes of a buffer (spec/40_scanner.md R102 to R108): one look, what it keeps,
and the pass as a whole. -/

namespace Sys2Proof.Machine

/-! ## A qualifying code -/

theorem isCodeAt_iff {buf : List Byte} {p : Nat} :
    isCodeAt buf p = true ↔ buf[p]? = some 0 ∧ buf[p + 1]? = some 0 ∧ buf[p + 2]? = some 1 ∧
      ∃ m, buf[p + 3]? = some m ∧ qualifying m = true := by
  cases h : buf[p + 3]? <;> simp [isCodeAt, h, and_assoc]

theorem qualifying_iff {m : Byte} : qualifying m = true ↔ 1 ≤ m.toNat ∧ m.toNat ≤ 0xAF := by
  simp [qualifying]

/-- A code's marker is in the buffer. -/
theorem lt_length_of_isCodeAt {buf : List Byte} {p : Nat} (h : isCodeAt buf p = true) :
    p + 3 < buf.length := by
  obtain ⟨-, -, -, m, hm, -⟩ := isCodeAt_iff.mp h
  exact (List.getElem?_eq_some_iff.mp hm).1

/-! ## One look -/

/-- One look of R103's loop at the byte at `i`: the scanner goes on, or the scan ends with its result. -/
def Scanner.look (buf : List Byte) (sc : Scanner) : Scanner ⊕ (Nat × Bool) :=
  match buf[sc.i]? with
  | none => .inr (0, false)
  | some b =>
    if sc.hit then if qualifying b then .inr (sc.i - 3, true) else .inl sc.resume
    else .inl (sc.pass b)

theorem Scanner.look_end {buf : List Byte} {sc : Scanner} (h : buf.length ≤ sc.i) :
    sc.look buf = .inr (0, false) := by
  simp [Scanner.look, h]

theorem Scanner.look_pass {buf : List Byte} {sc : Scanner} {b : Byte} (hb : buf[sc.i]? = some b)
    (hhit : sc.hit = false) : sc.look buf = .inl (sc.pass b) := by
  simp [Scanner.look, hb, hhit]

theorem Scanner.look_marker {buf : List Byte} {sc : Scanner} {b : Byte} (hb : buf[sc.i]? = some b)
    (hhit : sc.hit = true) :
    sc.look buf = if qualifying b then .inr (sc.i - 3, true) else .inl sc.resume := by
  simp [Scanner.look, hb, hhit]

/-- What a look can be. -/
theorem Scanner.look_cases (buf : List Byte) (sc : Scanner) :
    (buf.length ≤ sc.i ∧ sc.look buf = .inr (0, false)) ∨
    ∃ b, buf[sc.i]? = some b ∧
      ((sc.hit = false ∧ sc.look buf = .inl (sc.pass b)) ∨
       (sc.hit = true ∧ qualifying b = true ∧ sc.look buf = .inr (sc.i - 3, true)) ∨
       (sc.hit = true ∧ qualifying b = false ∧ sc.look buf = .inl sc.resume)) := by
  cases hb : buf[sc.i]? with
  | none =>
    have hend := List.getElem?_eq_none_iff.mp hb
    exact .inl ⟨hend, look_end hend⟩
  | some b =>
    refine .inr ⟨b, rfl, ?_⟩
    cases hhit : sc.hit with
    | false => exact .inl ⟨rfl, look_pass hb hhit⟩
    | true =>
      cases hq : qualifying b with
      | true => exact .inr (.inl ⟨rfl, rfl, by rw [look_marker hb hhit, if_pos hq]⟩)
      | false => exact .inr (.inr ⟨rfl, rfl, by rw [look_marker hb hhit, hq]; rfl⟩)

/-- The pure pass takes one look after another. -/
theorem scanFrom_succ (buf : List Byte) (fuel : Nat) (sc : Scanner) :
    scanFrom buf (fuel + 1) sc = (sc.look buf).elim (scanFrom buf fuel) id := by
  rcases sc.look_cases buf with ⟨hend, hlook⟩ | ⟨b, hb, ⟨hhit, hlook⟩ | ⟨hhit, hq, hlook⟩ |
    ⟨hhit, hq, hlook⟩⟩ <;> rw [hlook]
  · simp [scanFrom, hend]
  · simp [scanFrom, hb, hhit]
  · simp [scanFrom, hb, hhit, hq]
  · simp [scanFrom, hb, hhit, hq]

/-! ## What a look keeps -/

/-- What a right state is while the scanner counts zeros. -/
theorem scannerRight_counting {buf : List Byte} {sc : Scanner} (hhit : sc.hit = false) :
    scannerRight buf sc ↔ sc.i ≤ buf.length ∧ sc.z ≤ 2 ∧ sc.z ≤ sc.i ∧
      (∀ j, j < sc.z → buf[sc.i - 1 - j]? = some 0) ∧ ∀ p, isCodeAt buf p = true → sc.i - sc.z ≤ p := by
  simp [scannerRight, hhit]

/-- What a right state is after a whole `00 00 01`. -/
theorem scannerRight_hit {buf : List Byte} {sc : Scanner} (hhit : sc.hit = true) :
    scannerRight buf sc ↔ sc.i ≤ buf.length ∧ sc.z ≤ 2 ∧ 3 ≤ sc.i ∧ buf[sc.i - 3]? = some 0 ∧
      buf[sc.i - 2]? = some 0 ∧ buf[sc.i - 1]? = some 1 ∧ ∀ p, isCodeAt buf p = true → sc.i - 3 ≤ p := by
  simp [scannerRight, hhit]

theorem scannerRight_start (buf : List Byte) : scannerRight buf Scanner.start :=
  (scannerRight_counting rfl).mpr
    ⟨Nat.zero_le _, Nat.zero_le _, le_refl _, fun j hj => absurd hj (Nat.not_lt_zero j),
      fun p _ => Nat.zero_le p⟩

/-- A zero is the last of the zeros counted; two of them are enough. -/
theorem scannerRight_zero {buf : List Byte} {sc : Scanner} (hhit : sc.hit = false)
    (h : scannerRight buf sc) (hb : buf[sc.i]? = some 0) :
    scannerRight buf { sc with i := sc.i + 1, z := min (sc.z + 1) 2 } := by
  obtain ⟨-, hz2, hzi, hzeros, hleast⟩ := (scannerRight_counting hhit).mp h
  have hi : sc.i < buf.length := (List.getElem?_eq_some_iff.mp hb).1
  refine (scannerRight_counting (sc := { sc with i := sc.i + 1, z := min (sc.z + 1) 2 }) hhit).mpr
    ⟨hi, Nat.min_le_right _ _, by dsimp only; omega, ?_, ?_⟩
  · intro j hj
    cases j with
    | zero => exact hb
    | succ j =>
      have hprev := hzeros j (by dsimp only at hj; omega)
      rwa [show sc.i - 1 - j = sc.i + 1 - 1 - (j + 1) by omega] at hprev
  · intro p hp
    have hge := hleast p hp
    obtain ⟨-, -, hone, -⟩ := isCodeAt_iff.mp hp
    have hne : p + 2 ≠ sc.i := by
      rintro heq
      rw [heq, hb] at hone
      cases hone
    dsimp only
    omega

/-- A `0x01` after two zeros is a hit, with those two zeros before it. -/
theorem scannerRight_one {buf : List Byte} {sc : Scanner} (hhit : sc.hit = false)
    (h : scannerRight buf sc) (hb : buf[sc.i]? = some 1) (hz : sc.z = 2) :
    scannerRight buf { sc with i := sc.i + 1, hit := true } := by
  obtain ⟨-, -, hzi, hzeros, hleast⟩ := (scannerRight_counting hhit).mp h
  have hi : sc.i < buf.length := (List.getElem?_eq_some_iff.mp hb).1
  have hzero1 := hzeros 1 (by omega)
  have hzero0 := hzeros 0 (by omega)
  rw [hz] at hzi hleast
  refine (scannerRight_hit rfl).mpr ⟨hi, by simp [hz], by dsimp only; omega, ?_, ?_, hb, ?_⟩
  · rwa [show sc.i + 1 - 3 = sc.i - 1 - 1 by omega]
  · rwa [show sc.i + 1 - 2 = sc.i - 1 - 0 by omega]
  · intro p hp
    have := hleast p hp
    dsimp only
    omega

/-- Any other byte is none of the first three of a code that the scanner may still report. -/
theorem scannerRight_reset {buf : List Byte} {sc : Scanner} {b : Byte} (hhit : sc.hit = false)
    (h : scannerRight buf sc) (hb : buf[sc.i]? = some b) (h0 : b ≠ 0) (h1 : ¬ (b = 1 ∧ sc.z = 2)) :
    scannerRight buf { sc with i := sc.i + 1, z := 0 } := by
  obtain ⟨-, hz2, -, -, hleast⟩ := (scannerRight_counting hhit).mp h
  have hi : sc.i < buf.length := (List.getElem?_eq_some_iff.mp hb).1
  refine (scannerRight_counting (sc := { sc with i := sc.i + 1, z := 0 }) hhit).mpr
    ⟨hi, Nat.zero_le _, Nat.zero_le _, fun j hj => absurd hj (Nat.not_lt_zero j), fun p hp => ?_⟩
  have hge := hleast p hp
  obtain ⟨hzero, hzero', hone, -⟩ := isCodeAt_iff.mp hp
  have hne0 : p ≠ sc.i := by
    rintro rfl
    exact h0 (Option.some.inj (hb.symm.trans hzero))
  have hne1 : p + 1 ≠ sc.i := by
    intro heq
    rw [heq] at hzero'
    exact h0 (Option.some.inj (hb.symm.trans hzero'))
  have hne2 : p + 2 = sc.i → sc.z ≠ 2 := by
    intro heq hz
    rw [heq] at hone
    exact h1 ⟨Option.some.inj (hb.symm.trans hone), hz⟩
  dsimp only
  omega

/-- One byte further, the scanner's state is right again. -/
theorem scannerRight_pass {buf : List Byte} {sc : Scanner} {b : Byte} (hhit : sc.hit = false)
    (h : scannerRight buf sc) (hb : buf[sc.i]? = some b) : scannerRight buf (sc.pass b) := by
  unfold Scanner.pass
  split
  · next h0 => subst h0; exact scannerRight_zero hhit h hb
  · next h0 =>
    split
    · next h1 => obtain ⟨rfl, hz⟩ := h1; exact scannerRight_one hhit h hb hz
    · next h1 => exact scannerRight_reset hhit h hb h0 h1

/-- R104: no qualifying code begins at the three bytes before a marker that does not qualify. -/
theorem scannerRight_resume {buf : List Byte} {sc : Scanner} {b : Byte} (hhit : sc.hit = true)
    (h : scannerRight buf sc) (hb : buf[sc.i]? = some b) (hq : qualifying b = false) :
    scannerRight buf sc.resume := by
  obtain ⟨hi, -, h3, -, -, hone, hleast⟩ := (scannerRight_hit hhit).mp h
  refine (scannerRight_counting rfl).mpr
    ⟨hi, Nat.zero_le _, Nat.zero_le _, fun j hj => absurd hj (Nat.not_lt_zero j), fun p hp => ?_⟩
  have hge := hleast p hp
  obtain ⟨hzero, hzero', -, m, hm, hqm⟩ := isCodeAt_iff.mp hp
  have hne3 : p + 3 ≠ sc.i := by
    intro heq
    rw [heq, hb] at hm
    cases hm
    rw [hq] at hqm
    cases hqm
  have hne2 : p + 1 ≠ sc.i - 1 := by
    intro heq
    rw [heq, hone] at hzero'
    cases hzero'
  have hne1 : p ≠ sc.i - 1 := by
    intro heq
    rw [heq, hone] at hzero
    cases hzero
  change sc.i - 0 ≤ p
  omega

/-- At the end of the buffer there is no code left to report, also with a whole `00 00 01` before it
(R105). -/
theorem isScanResult_end {buf : List Byte} {sc : Scanner} (h : scannerRight buf sc)
    (hend : buf.length ≤ sc.i) : isScanResult buf 0 false := by
  refine .inr ⟨rfl, rfl, fun p => Bool.eq_false_iff.mpr fun hp => ?_⟩
  have hlt := lt_length_of_isCodeAt hp
  cases hhit : sc.hit with
  | false =>
    obtain ⟨-, hz2, -, -, hleast⟩ := (scannerRight_counting hhit).mp h
    have := hleast p hp
    omega
  | true =>
    obtain ⟨-, -, -, -, -, -, hleast⟩ := (scannerRight_hit hhit).mp h
    have := hleast p hp
    omega

/-- A qualifying marker ends the least code. -/
theorem isScanResult_found {buf : List Byte} {sc : Scanner} {b : Byte} (hhit : sc.hit = true)
    (h : scannerRight buf sc) (hb : buf[sc.i]? = some b) (hq : qualifying b = true) :
    isScanResult buf (sc.i - 3) true := by
  obtain ⟨-, -, h3, hzero, hzero', hone, hleast⟩ := (scannerRight_hit hhit).mp h
  refine .inl ⟨rfl, isCodeAt_iff.mpr ⟨hzero, ?_, ?_, b, ?_, hq⟩, fun p hp => ?_⟩
  · rwa [show sc.i - 3 + 1 = sc.i - 2 by omega]
  · rwa [show sc.i - 3 + 2 = sc.i - 1 by omega]
  · rwa [show sc.i - 3 + 3 = sc.i by omega]
  · exact Bool.eq_false_iff.mpr fun hcode => absurd (hleast p hcode) (by omega)

/-- A look that ends the scan gives R102's result. -/
theorem isScanResult_of_look {buf : List Byte} {sc : Scanner} {off : Nat} {found : Bool}
    (h : scannerRight buf sc) (hlook : sc.look buf = .inr (off, found)) : isScanResult buf off found := by
  rcases sc.look_cases buf with ⟨hend, hl⟩ | ⟨b, hb, ⟨-, hl⟩ | ⟨hhit, hq, hl⟩ | ⟨-, -, hl⟩⟩ <;>
    cases hl.symm.trans hlook
  · exact isScanResult_end h hend
  · exact isScanResult_found hhit h hb hq

/-! ## The pass ends -/

/-- How many looks of a scan can still go on: two for each byte from `i` on, and one more at a marker, which
may be looked at again. -/
def Scanner.looksLeft (len : Nat) (sc : Scanner) : Nat := 2 * (len - sc.i) + (if sc.hit then 1 else 0)

@[simp] theorem Scanner.pass_i (sc : Scanner) (b : Byte) : (sc.pass b).i = sc.i + 1 := by
  unfold Scanner.pass
  split_ifs <;> rfl

/-- A look that goes on keeps the scanner's state right, and leaves fewer looks (R107). -/
theorem scannerRight_of_look {buf : List Byte} {sc sc' : Scanner} (h : scannerRight buf sc)
    (hlook : sc.look buf = .inl sc') :
    scannerRight buf sc' ∧ sc'.looksLeft buf.length < sc.looksLeft buf.length := by
  rcases sc.look_cases buf with ⟨-, hl⟩ | ⟨b, hb, ⟨hhit, hl⟩ | ⟨-, -, hl⟩ | ⟨hhit, hq, hl⟩⟩ <;>
    cases hl.symm.trans hlook
  · have hi : sc.i < buf.length := (List.getElem?_eq_some_iff.mp hb).1
    refine ⟨scannerRight_pass hhit h hb, ?_⟩
    simp only [Scanner.looksLeft, Scanner.pass_i, hhit]
    split <;> simp <;> omega
  · exact ⟨scannerRight_resume hhit h hb hq, by simp [Scanner.looksLeft, Scanner.resume, hhit]⟩

/-- The scanner's bound on looks is at most two for each byte. -/
theorem scannerRight.looksLeft_le {buf : List Byte} {sc : Scanner} (h : scannerRight buf sc) :
    sc.looksLeft buf.length ≤ 2 * buf.length := by
  cases hhit : sc.hit with
  | false => simp [Scanner.looksLeft, hhit]
  | true =>
    obtain ⟨hi, -, h3, -⟩ := (scannerRight_hit hhit).mp h
    simp only [Scanner.looksLeft, hhit, if_true]
    omega

/-- With looks enough, the pass from a right state gives R102's result. -/
theorem isScanResult_scanFrom {buf : List Byte} {fuel : Nat} {sc : Scanner} (h : scannerRight buf sc)
    (hfuel : sc.looksLeft buf.length < fuel) :
    isScanResult buf (scanFrom buf fuel sc).1 (scanFrom buf fuel sc).2 := by
  induction fuel generalizing sc with
  | zero => exact absurd hfuel (Nat.not_lt_zero _)
  | succ fuel ih =>
    rw [scanFrom_succ]
    cases hlook : sc.look buf with
    | inl sc' =>
      obtain ⟨hright, hless⟩ := scannerRight_of_look h hlook
      exact ih hright (by omega)
    | inr result => exact isScanResult_of_look h hlook

/-- Settles O35, by the scanner's invariant at every look. -/
theorem scannerFindsLeastQualifyingCode : Obligations.ScannerFindsLeastQualifyingCode :=
  fun buf => isScanResult_scanFrom (scannerRight_start buf)
    (Nat.lt_succ_of_le (scannerRight_start buf).looksLeft_le)

/-- Settles O36: R108's bounds are those of R102's result. -/
theorem scanResultBounds : Obligations.ScanResultBounds := by
  intro buf off found hscan
  have hresult := scannerFindsLeastQualifyingCode buf
  rw [hscan] at hresult
  obtain ⟨rfl, hcode, -⟩ | ⟨rfl, rfl, -⟩ := hresult
  · have hlt := lt_length_of_isCodeAt hcode
    obtain ⟨h0, h1, h2, m, hm, hq⟩ := isCodeAt_iff.mp hcode
    exact ⟨fun _ => ⟨hlt, h0, h1, h2, m, hm, qualifying_iff.mp hq⟩, nofun, by omega⟩
  · exact ⟨nofun, fun _ => rfl, Nat.zero_le _⟩

end Sys2Proof.Machine

/-! PROOFS. The scan in the machine (spec/40_scanner.md R103 to R107): each step of phase 0 is one look, and
every step keeps the scan right. -/

namespace Sys2Proof.Machine

/-! ## The two start-code operations -/

/-- A qualifying code ends the scan: the scanner stands at the marker. -/
theorem exec_scQualifying (m : Byte) {s : State} {sc : Scanner} (hscan : s.scan = some sc)
    (h3 : 3 ≤ sc.i) : exec (.scQualifying m) s = .next (s.finishScan (sc.i - 3) true) := by
  simp [exec, execScQualifying, hscan, show ¬ sc.i < 3 by omega]

/-- Settles O27: the scanner stands at the marker, three past the code's first byte. -/
theorem qualifyingCodeEndsScan : Obligations.QualifyingCodeEndsScan := by
  intro m s sc hscan h3
  refine ⟨_, exec_scQualifying m hscan h3, ?_⟩
  simp [Result.withScan, keepsEngine, keepsTable, keepsMemory]

/-- Settles O28: the index stays at the marker. -/
theorem nonqualifyingCodeResumesAtMarker : Obligations.NonqualifyingCodeResumesAtMarker := by
  intro m s sc hscan
  simp [exec, execScNonqualifying, hscan, Scanner.resume]

/-! ## Bytes of the buffer -/

/-- A byte of the buffer is what the guarded read gives. -/
theorem bufByte_of_getElem? {m : List Host.Cell} {q : Request} {i : Nat} {b : Byte}
    (h : (bufBytes m q)[i]? = some b) : bufByte m q i = .ok b := by
  rw [bufBytes_getElem?] at h
  split at h
  · next hi => cases h; exact if_pos hi
  · cases h

/-- The four bytes of a start code, as one big-endian word (R71). -/
theorem startCodeWord_eq_bytes (b : Byte) : startCodeWord b = 0#8 ++ 0#8 ++ 1#8 ++ b := by
  revert b
  decide

/-- The bytes `00 00 01` and the marker after them are one start-code word. -/
theorem codeWindow_of_bytes {m : List Host.Cell} {q : Request} {i : Nat} {b : Byte} (h3 : 3 ≤ i)
    (hzero : (bufBytes m q)[i - 3]? = some 0) (hzero' : (bufBytes m q)[i - 2]? = some 0)
    (hone : (bufBytes m q)[i - 1]? = some 1) (hb : (bufBytes m q)[i]? = some b) :
    codeWindow m q i = .ok (startCodeWord b) := by
  simp [codeWindow, show ¬ i < 3 by omega, bufByte_of_getElem? hzero, bufByte_of_getElem? hzero',
    bufByte_of_getElem? hone, bufByte_of_getElem? hb, startCodeWord_eq_bytes]

/-! ## One step, one look -/

theorem scanActivity_end {m : List Host.Cell} {q : Request} {sc : Scanner} (hend : q.len ≤ sc.i) :
    scanActivity m q sc = .finish := by
  simp [scanActivity, hend]

theorem scanActivity_pass {m : List Host.Cell} {q : Request} {sc : Scanner} (hhit : sc.hit = false)
    (hi : sc.i < q.len) : scanActivity m q sc = .pass q sc := by
  simp [scanActivity, hhit, show ¬ q.len ≤ sc.i by omega]

/-- At a marker, its class says which of the two start-code operations runs (R101). -/
theorem scanActivity_marker {m : List Host.Cell} {q : Request} {sc : Scanner} {b : Byte}
    (hhit : sc.hit = true) (hright : scannerRight (bufBytes m q) sc)
    (hb : (bufBytes m q)[sc.i]? = some b) :
    scanActivity m q sc = .instr (if qualifying b then .scQualifying b else .scNonqualifying b) := by
  obtain ⟨-, -, h3, hzero, hzero', hone, -⟩ := (scannerRight_hit hhit).mp hright
  have hi := (List.getElem?_eq_some_iff.mp hb).1
  rw [bufBytes_length] at hi
  simp [scanActivity, hhit, show ¬ q.len ≤ sc.i by omega, codeWindow_of_bytes h3 hzero hzero' hone hb,
    decode, decodeWindow_startCodeWord]

/-- In phase 0 the DFE scans. -/
theorem activity_of_scan {s : State} {q : Request} {sc : Scanner} (hst : s.st = .idle)
    (hlatch : s.latch = some q) (hscan : s.scan = some sc) :
    s.envTurn.activity = scanActivity s.envTurn.mem q sc := by
  simp [State.activity, hst, hlatch, hscan]

/-- The end of the buffer ends the scan in one step. -/
theorem step_of_scan_end {s : State} {q : Request} {sc : Scanner} (hst : s.st = .idle)
    (hlatch : s.latch = some q) (hscan : s.scan = some sc) (hend : q.len ≤ sc.i) :
    step s = .next (s.envTurn.finishScan 0 false) := by
  simp only [step, activity_of_scan hst hlatch hscan, scanActivity_end hend, State.scanEnd]

/-- With no hit, a step passes over one byte. -/
theorem step_of_scan_pass {s : State} {q : Request} {sc : Scanner} (hst : s.st = .idle)
    (hlatch : s.latch = some q) (hscan : s.scan = some sc) (hhit : sc.hit = false) (hi : sc.i < q.len) :
    step s = .next { s.envTurn with
      scan := some (sc.pass (Memory.read s.envTurn.mem (q.bufVa + sc.i))) } := by
  simp only [step, activity_of_scan hst hlatch hscan, scanActivity_pass hhit hi, State.scanPass, bufByte,
    if_pos hi]

/-- At a marker, a step runs the start code that the marker names. -/
theorem step_of_scan_marker {s : State} {q : Request} {sc : Scanner} {b : Byte} (hst : s.st = .idle)
    (hlatch : s.latch = some q) (hscan : s.scan = some sc) (hhit : sc.hit = true)
    (hright : scannerRight (bufBytes s.envTurn.mem q) sc)
    (hb : (bufBytes s.envTurn.mem q)[sc.i]? = some b) :
    step s = exec (if qualifying b then .scQualifying b else .scNonqualifying b) s.envTurn := by
  simp only [step, activity_of_scan hst hlatch hscan, scanActivity_marker hhit hright hb]

/-- The state after a look: the scan goes on, or it has its result and step 1 follows. -/
def State.looked (e : State) : Scanner ⊕ (Nat × Bool) → State
  | .inl sc => { e with scan := some sc }
  | .inr (off, found) => e.finishScan off found

/-- Where the scanner's state is right, a step of phase 0 is the engine's turn and then one look. -/
theorem step_eq_looked {s : State} {q : Request} {sc : Scanner} (hst : s.st = .idle)
    (hlatch : s.latch = some q) (hscan : s.scan = some sc) (hright : scannerRight (bufBytes s.mem q) sc) :
    step s = .next (s.envTurn.looked (sc.look (bufBytes s.mem q))) := by
  have hbuf := envTurn_bufBytes hlatch
  rw [← hbuf] at hright ⊢
  rcases sc.look_cases (bufBytes s.envTurn.mem q) with ⟨hend, hlook⟩ | ⟨b, hb, hlook⟩
  · rw [hlook]
    exact step_of_scan_end hst hlatch hscan (by simpa using hend)
  · obtain ⟨hi, hread⟩ : sc.i < q.len ∧ Memory.read s.envTurn.mem (q.bufVa + sc.i) = b := by
      simpa [bufBytes_getElem?] using hb
    have hscan' : s.envTurn.scan = some sc := by rw [envTurn_scan, hscan]
    rcases hlook with ⟨hhit, hlook⟩ | ⟨hhit, hq, hlook⟩ | ⟨hhit, hq, hlook⟩ <;> rw [hlook]
    · rw [step_of_scan_pass hst hlatch hscan hhit hi, hread]
      rfl
    · obtain ⟨-, -, h3, -⟩ := (scannerRight_hit hhit).mp hright
      rw [step_of_scan_marker hst hlatch hscan hhit hright hb, if_pos hq]
      exact exec_scQualifying b hscan' h3
    · rw [step_of_scan_marker hst hlatch hscan hhit hright hb, hq]
      exact nonqualifyingCodeResumesAtMarker b _ sc hscan'

/-- The three cases of a pass, field by field. -/
theorem Scanner.pass_eq {sc : Scanner} (hhit : sc.hit = false) (b : Byte) : sc.pass b =
    { i := sc.i + 1
      z := if b = 0 then min (sc.z + 1) 2 else if b = 1 ∧ sc.z = 2 then 2 else 0
      hit := decide (b = 1 ∧ sc.z = 2) } := by
  by_cases h0 : b = 0
  · simp [Scanner.pass, h0, hhit]
  · by_cases h1 : b = 1 ∧ sc.z = 2
    · simp [Scanner.pass, h1]
    · simp only [Scanner.pass, if_neg h0, if_neg h1, hhit, decide_eq_false h1]

/-- Settles O37: the step is the pass over one byte, and its three cases are the record's. -/
theorem scanPassLooksAtOneByte : Obligations.ScanPassLooksAtOneByte := by
  intro s q sc hst hlatch hscan hhit hi
  rw [step_of_scan_pass hst hlatch hscan hhit hi, Scanner.pass_eq hhit]

/-- Settles O38: the scan's end needs no code, whatever the scanner has counted. -/
theorem scanEndFallsBackToZero : Obligations.ScanEndFallsBackToZero := by
  intro s q sc hst hlatch hscan hend
  exact ⟨_, step_of_scan_end hst hlatch hscan hend, rfl, rfl, rfl, rfl, rfl, by simp [hlatch], by simp,
    by simp, by simp, by simp⟩

/-! ## The invariant -/

/-- What the invariant says in phase 0. -/
theorem ScanInv.scanning {s : State} {q : Request} {sc : Scanner} (h : ScanInv s) (hst : s.st = .idle)
    (hlatch : s.latch = some q) (hscan : s.scan = some sc) : scannerRight (bufBytes s.mem q) sc := by
  have hright := h q hlatch
  rw [if_pos hst] at hright
  exact hright sc hscan

/-- What the invariant says in the rest of the transaction. -/
theorem ScanInv.scanned {s : State} {q : Request} (h : ScanInv s) (hst : s.st ≠ .idle)
    (hlatch : s.latch = some q) :
    isScanResult (bufBytes s.mem q) s.res.startOffset (!s.res.noStartCode) := by
  have hresult := h q hlatch
  rwa [if_neg hst] at hresult

/-- With no request latched there is nothing to scan. -/
theorem ScanInv.of_no_request {s : State} (h : s.latch = none) : ScanInv s := by
  intro q hq
  rw [h] at hq
  cases hq

theorem ScanInv.of_scanning {s : State} {q : Request} {sc : Scanner} (hst : s.st = .idle)
    (hlatch : s.latch = some q) (hscan : s.scan = some sc)
    (hright : scannerRight (bufBytes s.mem q) sc) : ScanInv s := by
  intro q' hq'
  obtain rfl := Option.some.inj (hlatch.symm.trans hq')
  rw [if_pos hst]
  intro sc' hsc'
  obtain rfl := Option.some.inj (hscan.symm.trans hsc')
  exact hright

theorem ScanInv.of_scanned {s : State} {q : Request} (hst : s.st ≠ .idle) (hlatch : s.latch = some q)
    (hresult : isScanResult (bufBytes s.mem q) s.res.startOffset (!s.res.noStartCode)) : ScanInv s := by
  intro q' hq'
  obtain rfl := Option.some.inj (hlatch.symm.trans hq')
  rwa [if_neg hst]

/-- A turn keeps the latched buffer's bytes, and so the scan right. -/
theorem ScanInv.envTurn {s : State} (h : ScanInv s) : ScanInv s.envTurn := by
  intro q hq
  rw [envTurn_latch] at hq
  rw [envTurn_st, envTurn_scan, envTurn_res, envTurn_bufBytes hq]
  exact h q hq

/-- The host's turn begins at most one scan, at the buffer's first byte. -/
theorem ScanInv.of_hostTurn {s t : State} (hst : s.st = .idle) (hlatch : s.latch = none)
    (h : s.hostTurn = .next t) : ScanInv t := by
  rcases hostTurn_cases h with rfl | ⟨q, rest, -, -, haccept⟩ | ⟨rest, -, -, rfl⟩ |
    ⟨a, b, rest, -, rfl⟩ | ⟨rest, -, rfl⟩ | ⟨rest, -, rfl⟩
  · exact .of_no_request hlatch
  · obtain ⟨-, ⟨-, rfl⟩ | ⟨f, -, ⟨-, rfl⟩ | ⟨b, -, rfl⟩⟩⟩ := accept_cases haccept
    · exact .of_no_request hlatch
    · exact .of_no_request hlatch
    · exact .of_scanning hst rfl rfl (scannerRight_start _)
  · exact .of_no_request hlatch
  · exact .of_no_request hlatch
  · exact .of_no_request hlatch
  · exact .of_no_request rfl

/-- A look keeps the scan right, and the result of its end is R102's. -/
theorem ScanInv.of_looked {e : State} {q : Request} {sc : Scanner} (hst : e.st = .idle)
    (hlatch : e.latch = some q) (hright : scannerRight (bufBytes e.mem q) sc) :
    ScanInv (e.looked (sc.look (bufBytes e.mem q))) := by
  cases hlook : sc.look (bufBytes e.mem q) with
  | inl sc' => exact .of_scanning hst hlatch rfl (scannerRight_of_look hright hlook).1
  | inr result =>
    obtain ⟨off, found⟩ := result
    refine .of_scanned (s := e.finishScan off found) nofun hlatch ?_
    simpa [Result.withScan] using isScanResult_of_look hright hlook

/-- An operation on the register bus ends the transaction, or stays outside phase 0 with the scan's result
as it was. -/
theorem Ran.keeps_result {s t : State} {i : Instr} (h : Ran s i t) (hst : s.st ≠ .idle)
    (hbus : busEvents i ≠ []) : t.latch = none ∨ (t.st ≠ .idle ∧ t.res = s.res) := by
  cases h with
  | codeFound | codeSkipped => exact absurd rfl hbus
  | modeEnter | plainWrite => exact .inr ⟨hst, rfl⟩
  | trigger | statusClear => exact .inr ⟨nofun, rfl⟩
  | waitCompletes n w hw _ => right; rcases hw with rfl | rfl <;> simp
  | waitTimesOut n w hw _ _ => right; rcases hw with rfl | rfl <;> simp
  | waitHolds n _ _ => right; simp
  | modeExit => exact .inl rfl

/-- Every operation of the program goes to the register bus: none is a start code. -/
theorem busEvents_ne_nil_of_stepOps {q : Request} {fwd bwd : Option Surface} {off : Nat} {m : Word}
    {n : Nat} {i : Instr} (h : i ∈ stepOps q fwd bwd off m n) : busEvents i ≠ [] := by
  by_cases hplain : 2 ≤ n ∧ n ≤ 8
  · obtain ⟨r, v, hev, -⟩ := stepOps_plain hplain.1 hplain.2 h
    simp [hev]
  · unfold stepOps at h
    split at h
    case h_1 | h_9 | h_10 | h_11 | h_12 =>
      obtain rfl := List.mem_singleton.mp h
      exact nofun
    case h_13 => cases h
    all_goals omega

theorem busEvents_ne_nil_of_issue {s : State} {i : Instr} (h : s.issue = some i) : busEvents i ≠ [] := by
  obtain ⟨q, p, -, -, hi⟩ := issue_eq_some h
  exact busEvents_ne_nil_of_stepOps (List.mem_of_getElem? hi)

/-- An issued operation keeps the result of the scan with the bytes it is the result of. -/
theorem ScanInv.of_issued {s t : State} {i : Instr} (hs : ScanInv s) (hst : s.st ≠ .idle)
    (hi : s.issue = some i) (h : exec i s = .next t) : ScanInv t := by
  have hran := ran_of_exec h
  rcases hran.keeps_result hst (busEvents_ne_nil_of_issue hi) with hnone | ⟨hst', hres⟩
  · exact .of_no_request hnone
  · rcases hran.latch with hnone | ⟨hlatch, -, -⟩
    · exact .of_no_request hnone
    · cases hq : s.latch with
      | none => exact .of_no_request (hlatch.trans hq)
      | some q =>
        refine .of_scanned hst' (hlatch.trans hq) ?_
        rw [hran.mem, hres]
        exact hs.scanned hst hq

/-- Every step keeps the scan right. -/
theorem ScanInv.of_step {s t : State} (hs : ScanInv s) (h : step s = .next t) : ScanInv t := by
  obtain ⟨e, rfl, ⟨hst, hlatch, hhost⟩ | ⟨hst, q, sc, hlatch, hscan, -⟩ | ⟨hst, i, hi, hexec⟩⟩ :=
    step_cases h
  · exact .of_hostTurn hst hlatch hhost
  · rw [envTurn_st] at hst
    rw [envTurn_latch] at hlatch
    rw [envTurn_scan] at hscan
    have hright := hs.scanning hst hlatch hscan
    cases (step_eq_looked hst hlatch hscan hright).symm.trans h
    rw [← envTurn_bufBytes hlatch] at hright ⊢
    exact .of_looked (by simpa using hst) (by simpa using hlatch) hright
  · exact hs.envTurn.of_issued hst hi hexec

/-! ## A next state at every step -/

/-- An operation on the register bus always completes. -/
theorem exec_completes {i : Instr} (h : busEvents i ≠ []) (s : State) : ∃ t, exec i s = .next t := by
  cases i with
  | scQualifying | scNonqualifying => exact absurd rfl h
  | wait n =>
    change ∃ t, execWait n s = .next t
    rcases execWait_cases n s with ⟨-, w, -, hx⟩ | ⟨-, -, w, -, hx⟩ | ⟨-, -, hx⟩ <;> exact ⟨_, hx⟩
  | _ => exact ⟨_, rfl⟩

/-- A step has as many operations as R23 counts. -/
@[simp] theorem stepOps_length (q : Request) (fwd bwd : Option Surface) (off : Nat) (m : Word) (n : Nat) :
    (stepOps q fwd bwd off m n).length = opCount fwd bwd n := by
  unfold stepOps opCount
  split <;> simp

/-- Outside Idle the step pointer is at an operation of the program. -/
theorem SeqInv.pc_in_program {s : State} (hs : SeqInv s) (hst : s.st ≠ .idle) :
    ∃ p, s.pc = some p ∧ 1 ≤ p.step ∧ p.step ≤ 12 ∧ p.k < opCount s.fwd s.bwd p.step := by
  cases hstate : s.st with
  | idle => contradiction
  | configuring =>
    obtain ⟨-, -, -, p, hpc, h1, h9, hk⟩ := (seqInv_configuring hstate).mp hs
    exact ⟨p, hpc, h1, by omega, hk⟩
  | triggered =>
    obtain ⟨-, -, -, hpc⟩ := (seqInv_triggered hstate).mp hs
    exact ⟨_, hpc, by decide, by decide, by simp [opCount]⟩
  | awaitingCompletion =>
    obtain ⟨-, -, ⟨-, hpc⟩ | ⟨-, hpc⟩⟩ := (seqInv_awaitingCompletion hstate).mp hs <;>
      exact ⟨_, hpc, by decide, by decide, by simp [opCount]⟩
  | completing =>
    obtain ⟨-, -, -, hpc⟩ := (seqInv_completing hstate).mp hs
    exact ⟨_, hpc, by decide, by decide, by simp [opCount]⟩

/-- Outside Idle the sequencer issues an operation. -/
theorem SeqInv.issues {s : State} (hs : SeqInv s) (hst : s.st ≠ .idle) : ∃ i, s.issue = some i := by
  obtain ⟨hlatch, -⟩ := hs.latched hst
  obtain ⟨q, hq⟩ := Option.isSome_iff_exists.mp hlatch
  obtain ⟨p, hpc, -, -, hk⟩ := hs.pc_in_program hst
  rw [← stepOps_length q s.fwd s.bwd s.res.startOffset s.modeNext p.step] at hk
  exact ⟨_, by rw [State.issue, hq, hpc]; exact List.getElem?_eq_getElem hk⟩

/-- Outside Idle a step is the engine's turn and then the operation issued, which completes. -/
theorem SeqInv.step_issued {s : State} (hs : SeqInv s) (hst : s.st ≠ .idle) :
    ∃ i t, s.envTurn.issue = some i ∧ exec i s.envTurn = .next t ∧ step s = .next t := by
  have hst' : s.envTurn.st ≠ .idle := by rwa [envTurn_st]
  obtain ⟨i, hi⟩ := ((seqInv_envTurn s).mpr hs).issues hst'
  obtain ⟨t, ht⟩ := exec_completes (busEvents_ne_nil_of_issue hi) s.envTurn
  exact ⟨i, t, hi, ht, by simp [step, activity_of_issue hst' hi, ht]⟩

/-- In phase 0 a scan is in progress. -/
theorem SeqInv.scans {s : State} {q : Request} (hs : SeqInv s) (hst : s.st = .idle)
    (hlatch : s.latch = some q) : ∃ sc, s.scan = some sc := by
  obtain ⟨-, -, hboth⟩ := (seqInv_idle hst).mp hs
  simpa [hlatch, Option.isSome_iff_exists] using hboth

/-- An accepted request is refused, when it is ill formed, and otherwise goes on. -/
theorem accept_completes (s : State) (q : Request) :
    (∃ t, s.accept q = .next t) ∨ s.accept q = .refused .requestIllFormed := by
  unfold State.accept
  split
  · left
    split
    · exact ⟨_, rfl⟩
    · split <;> exact ⟨_, rfl⟩
  · exact .inr rfl

/-- The host's turn goes on, but for its two refused moves (R206, R46). -/
theorem hostTurn_completes (s : State) :
    (∃ t, s.hostTurn = .next t) ∨
    (s.hostTurn = .refused .requestIllFormed ∧ ∃ q rest, s.host = .request q :: rest) ∨
    (s.hostTurn = .refused .resultNotReady ∧ ∃ rest, s.host = .readResult :: rest) := by
  unfold State.hostTurn
  split
  · exact .inl ⟨_, rfl⟩
  · next q rest hhost =>
    split
    · exact (accept_completes _ q).imp id fun h => .inl ⟨h, q, rest, hhost⟩
    · exact .inl ⟨_, rfl⟩
  · next rest hhost =>
    split
    · exact .inl ⟨_, rfl⟩
    · exact .inr (.inr ⟨rfl, rest, hhost⟩)
  · exact .inl ⟨_, rfl⟩
  · exact .inl ⟨_, rfl⟩
  · exact .inl ⟨_, rfl⟩

/-- Settles O52: each look keeps the scanner's state right and the operations keep its result; and the step
goes on by the state's three kinds: the host's turn, a look, an issued operation. -/
theorem stepKeepsScanInvariant : Obligations.StepKeepsScanInvariant := by
  refine ⟨fun s t => ScanInv.of_step, fun s hseq hinv => ?_⟩
  by_cases hst : s.st = .idle
  · cases hlatch : s.latch with
    | none =>
      have hhost := hostTurn_completes s.envTurn
      rw [← step_eq_hostTurn hst hlatch, envTurn_host] at hhost
      exact hhost.imp id fun hrefused => ⟨hst, rfl, hrefused⟩
    | some q =>
      obtain ⟨sc, hscan⟩ := hseq.scans hst hlatch
      exact .inl ⟨_, step_eq_looked hst hlatch hscan (hinv.scanning hst hlatch hscan)⟩
  · obtain ⟨i, t, -, -, ht⟩ := hseq.step_issued hst
    exact .inl ⟨t, ht⟩

end Sys2Proof.Machine

/-! PROOFS. How long a transaction takes (spec/40_scanner.md R107; spec/10_state.md R23): the steps of its
scan, and with a completion pending one step for each operation of its program. -/

namespace Sys2Proof.Machine

/-- A run goes on from the state that its first step answers. -/
theorem run_of_step {s t : State} (h : step s = .next t) (n : Nat) :
    Sys2Proof.core.run (n + 1) s = Sys2Proof.core.run n t := by
  have hcore : Sys2Proof.core.step s = .next t := h
  simp only [Host.Core.run, hcore]

/-- With no move left, a turn adds no event. -/
theorem envTurn_quiet {s : State} (h : s.env = []) : s.envTurn.env = [] ∧ s.envTurn.pending = s.pending := by
  rw [envTurn_of_nil h]
  exact ⟨h, rfl⟩

/-! ## The scan -/

/-- `t` is where the scan that `s` stands in has ended: at step 1, with R102's result and the request and its
surfaces as they were; and with no move left of the engine, with no event added. -/
def scanEndsAt (q : Request) (s t : State) : Prop :=
  t.st = .configuring ∧ t.pc = some ⟨1, 0⟩ ∧ t.latch = some q ∧ t.fwd = s.fwd ∧ t.bwd = s.bwd ∧
  isScanResult (bufBytes s.mem q) t.res.startOffset (!t.res.noStartCode) ∧
  (s.env = [] → t.env = [] ∧ t.pending = s.pending)

/-- The look that ends the scan leads there. -/
theorem scanEndsAt_of_result {s : State} {q : Request} {off : Nat} {found : Bool}
    (hlatch : s.latch = some q) (hresult : isScanResult (bufBytes s.mem q) off found) :
    scanEndsAt q s (s.envTurn.finishScan off found) := by
  refine ⟨rfl, rfl, by simp [hlatch], by simp, by simp, by simpa [Result.withScan] using hresult, ?_⟩
  exact envTurn_quiet

/-- A look that goes on with the scan leads where the rest of it leads. -/
theorem scanEndsAt_of_look {s t : State} {q : Request} {sc : Scanner} (hlatch : s.latch = some q)
    (h : scanEndsAt q { s.envTurn with scan := some sc } t) : scanEndsAt q s t := by
  obtain ⟨hst, hpc, hlatch', hfwd, hbwd, hresult, hquiet⟩ := h
  refine ⟨hst, hpc, hlatch', by simpa using hfwd, by simpa using hbwd, ?_, fun henv => ?_⟩
  · rwa [← envTurn_bufBytes hlatch]
  · obtain ⟨henv', hpending⟩ := envTurn_quiet henv
    obtain ⟨ht, htpending⟩ := hquiet henv'
    exact ⟨ht, htpending.trans hpending⟩

/-- The scan ends, after the looks that can go on and one more, whatever the engine and the timer do
(R107). -/
theorem run_scan {s : State} {q : Request} {sc : Scanner} (hst : s.st = .idle)
    (hlatch : s.latch = some q) (hscan : s.scan = some sc)
    (hright : scannerRight (bufBytes s.mem q) sc) :
    ∃ n t, n ≤ sc.looksLeft q.len + 1 ∧ Sys2Proof.core.run n s = .next t ∧ scanEndsAt q s t := by
  induction hlooks : sc.looksLeft q.len using Nat.strong_induction_on generalizing s sc with
  | _ looks ih =>
    have hstep := step_eq_looked hst hlatch hscan hright
    cases hlook : sc.look (bufBytes s.mem q) with
    | inr result =>
      obtain ⟨off, found⟩ := result
      rw [hlook] at hstep
      exact ⟨1, _, by omega, run_of_step hstep 0,
        scanEndsAt_of_result hlatch (isScanResult_of_look hright hlook)⟩
    | inl sc' =>
      rw [hlook] at hstep
      obtain ⟨hright', hless⟩ := scannerRight_of_look hright hlook
      rw [← envTurn_bufBytes hlatch] at hright'
      rw [bufBytes_length, hlooks] at hless
      obtain ⟨n, t, hn, hrun, hend⟩ := ih _ hless (s := { s.envTurn with scan := some sc' })
        (by simpa using hst) (by simpa using hlatch) rfl hright' rfl
      exact ⟨n + 1, t, by omega, (run_of_step hstep n).trans hrun, scanEndsAt_of_look hlatch hend⟩

/-! ## The operations left -/

/-- The operations of step `n` and of the steps after it. -/
def opsFrom (fwd bwd : Option Surface) (n : Nat) : Nat :=
  ((List.range' n (13 - n)).map (opCount fwd bwd)).sum

theorem opsFrom_eq (fwd bwd : Option Surface) {n : Nat} (h : n ≤ 12) :
    opsFrom fwd bwd n = opCount fwd bwd n + opsFrom fwd bwd (n + 1) := by
  rw [opsFrom, opsFrom, show 13 - n = 13 - (n + 1) + 1 by omega, List.range'_succ, List.map_cons,
    List.sum_cons]

/-- The operations of a transaction from a place of its program on. -/
def opsLeft (fwd bwd : Option Surface) (p : Pc) : Nat := opsFrom fwd bwd p.step - p.k

/-- At step 1 the whole program is left. -/
theorem opsLeft_first (fwd bwd : Option Surface) :
    opsLeft fwd bwd ⟨1, 0⟩ = 145 + (if fwd.isSome then 2 else 0) + (if bwd.isSome then 2 else 0) := by
  simp only [opsLeft, opsFrom, opCount, List.range', List.map_cons, List.map_nil, List.sum_cons,
    List.sum_nil]
  omega

/-- The step pointer's advance leaves one operation fewer, also past an empty step 6 (R23). -/
theorem opsLeft_after (fwd bwd : Option Surface) {p : Pc} (h12 : p.step ≤ 12)
    (hk : p.k < opCount fwd bwd p.step) : opsLeft fwd bwd (p.after fwd bwd) + 1 = opsLeft fwd bwd p := by
  obtain ⟨n, k⟩ := p
  dsimp only at h12 hk
  have hn := opsFrom_eq fwd bwd h12
  unfold Pc.after opsLeft
  dsimp only
  split
  · dsimp only
    omega
  · split
    · next hskip =>
      obtain ⟨rfl, h6⟩ := hskip
      have h67 : opsFrom fwd bwd 6 = opCount fwd bwd 6 + opsFrom fwd bwd 7 :=
        opsFrom_eq fwd bwd (by decide)
      have h56 : opsFrom fwd bwd 5 = opCount fwd bwd 5 + opsFrom fwd bwd 6 := hn
      dsimp only at *
      omega
    · dsimp only
      omega

/-! ## A transaction with a completion pending -/

/-- A wait with its events there and no timeout event ends by completion (R173 a). -/
theorem execWait_of_pending {s : State} {n : Nat} (hn : n ≤ s.pending) (hevent : s.timeoutEvent = false) :
    execWait n s = .next ((s.beginWait n).waitCompletes n) := by
  simp [execWait, hn, hevent]

/-- A transaction with no move of the engine or the timer left, and with `p` completion events, at least
one, before its wait has ended; once it has ended, it ended `OK` and took one of them. -/
structure OnCourse (p : Nat) (s : State) : Prop where
  inv : SeqInv s
  busy : s.st ≠ .idle
  quiet : s.env = []
  counted : (s.outcome = none ∧ s.pending = p ∧ 1 ≤ p) ∨ (s.outcome = some .ok ∧ s.pending = p - 1)

/-- The transaction's end that it is on course for. -/
def endsOk (p : Nat) (t : State) : Prop :=
  t.st = .idle ∧ t.latch = none ∧ t.res.code = .ok ∧ t.pending = p - 1

/-- An event is there for a wait that has not ended. -/
theorem OnCourse.pending_pos {p : Nat} {s : State} (h : OnCourse p s) (hout : s.outcome = none) :
    s.pending = p ∧ 1 ≤ p := by
  rcases h.counted with ⟨-, hp⟩ | ⟨hok, -⟩
  · exact hp
  · rw [hout] at hok
    cases hok

/-- A wait that has ended has taken its event. -/
theorem OnCourse.consumed {p : Nat} {s : State} (h : OnCourse p s) (hout : s.outcome.isSome = true) :
    s.outcome = some .ok ∧ s.pending = p - 1 := by
  rcases h.counted with ⟨hnone, -⟩ | hok
  · rw [hnone] at hout
    cases hout
  · exact hok

/-- Outside Idle it stays on course when its events are as they were, or the wait takes its one. -/
theorem OnCourse.goesOn {p : Nat} {s t : State} (h : OnCourse p s) (hinv : SeqInv t) (hst : t.st ≠ .idle)
    (henv : t.env = s.env)
    (hcounted : (t.outcome = s.outcome ∧ t.pending = s.pending) ∨
      (t.outcome = some .ok ∧ t.pending = p - 1)) : OnCourse p t := by
  refine ⟨hinv, hst, henv.trans h.quiet, ?_⟩
  rcases hcounted with ⟨hout, hp⟩ | hended
  · rw [hout, hp]
    exact h.counted
  · exact .inr hended

/-- Each step runs one operation: the transaction stays on course at the next place, or it was the last. -/
theorem OnCourse.step {p : Nat} {s : State} {c : Pc} (h : OnCourse p s) (hpc : s.pc = some c) :
    ∃ t, step s = .next t ∧
      ((OnCourse p t ∧ t.pc = some (c.after s.fwd s.bwd) ∧ t.fwd = s.fwd ∧ t.bwd = s.bwd) ∨
       (c = ⟨12, 0⟩ ∧ endsOk p t)) := by
  obtain ⟨i, t, hi, hexec, hstep⟩ := h.inv.step_issued h.busy
  have hinv := (h.inv.of_step hstep).1
  rw [envTurn_of_nil h.quiet] at hi hexec
  refine ⟨t, hstep, ?_⟩
  have hnext : s.pc.map (Pc.after s.fwd s.bwd) = some (c.after s.fwd s.bwd) := by rw [hpc]; rfl
  rcases issue_cases (s := { s with timeoutEvent := false }) h.inv h.busy hi with ⟨-, -, rfl⟩ |
    ⟨-, -, r, v, hev, htrigger, hstatus⟩ | ⟨-, -, profile, rfl⟩ | ⟨-, hout, -, rfl⟩ | ⟨-, -, -, rfl⟩ |
    ⟨hc, hpc', rfl⟩
  · cases hexec
    exact .inl ⟨h.goesOn hinv h.busy rfl (.inl ⟨rfl, rfl⟩), hnext, rfl, rfl⟩
  · rw [exec_of_plainWrite hev htrigger hstatus] at hexec
    cases hexec
    exact .inl ⟨h.goesOn hinv h.busy rfl (.inl ⟨rfl, rfl⟩), hnext, rfl, rfl⟩
  · cases hexec
    exact .inl ⟨h.goesOn hinv nofun rfl (.inl ⟨rfl, rfl⟩), hnext, rfl, rfl⟩
  · obtain ⟨hp, hpos⟩ := h.pending_pos hout
    have hwait := execWait_of_pending (s := { s with timeoutEvent := false }) (n := Config.waitCount)
      (hpos.trans hp.ge) rfl
    cases hwait.symm.trans hexec
    have hconsumed : s.pending - Config.waitCount = p - 1 := by rw [hp]; rfl
    exact .inl ⟨h.goesOn hinv (by simp) (by simp) (.inr ⟨rfl, by simpa using hconsumed⟩),
      by simpa using hnext, by simp, by simp⟩
  · cases hexec
    exact .inl ⟨h.goesOn hinv nofun rfl (.inl ⟨rfl, rfl⟩), hnext, rfl, rfl⟩
  · obtain ⟨-, -, hsome, -⟩ := (seqInv_completing hc).mp h.inv
    obtain ⟨hok, hp⟩ := h.consumed hsome
    cases hexec
    refine .inr ⟨Option.some.inj (hpc.symm.trans hpc'), rfl, rfl, ?_, hp⟩
    simp [Result.withOutcome, hok]

theorem OnCourse.opsLeft_after {p : Nat} {s : State} {c : Pc} (h : OnCourse p s) (hpc : s.pc = some c) :
    opsLeft s.fwd s.bwd (c.after s.fwd s.bwd) + 1 = opsLeft s.fwd s.bwd c := by
  obtain ⟨c', hpc', -, h12, hk⟩ := h.inv.pc_in_program h.busy
  obtain rfl := Option.some.inj (hpc.symm.trans hpc')
  exact Machine.opsLeft_after _ _ h12 hk

/-- On course, a transaction ends `OK` after as many steps as operations are left. -/
theorem OnCourse.run {p : Nat} {s : State} {c : Pc} (h : OnCourse p s) (hpc : s.pc = some c) :
    ∃ t, Sys2Proof.core.run (opsLeft s.fwd s.bwd c) s = .next t ∧ endsOk p t := by
  induction hleft : opsLeft s.fwd s.bwd c generalizing s c with
  | zero => exact absurd (h.opsLeft_after hpc) (by omega)
  | succ left ih =>
    have hless := h.opsLeft_after hpc
    obtain ⟨t, hstep, ⟨hcourse, hpct, hfwd, hbwd⟩ | ⟨rfl, hend⟩⟩ := h.step hpc
    · rw [run_of_step hstep]
      exact ih hcourse hpct (by rw [hfwd, hbwd]; omega)
    · obtain rfl : left = 0 := Nat.succ.inj hleft.symm
      exact ⟨t, run_of_step hstep 0, hend⟩

/-- Settles O59: the looks of the scan count down, and then the operations of the program. -/
theorem pendingCompletionEndsTransaction : Obligations.PendingCompletionEndsTransaction := by
  refine ⟨fun s q hseq hinv hst hlatch => ?_, fun s hseq hst hpc hquiet hpending => ?_⟩
  · obtain ⟨sc, hscan⟩ := hseq.scans hst hlatch
    have hright := hinv.scanning hst hlatch hscan
    obtain ⟨n, t, hn, hrun, hend⟩ := run_scan hst hlatch hscan hright
    have hlooks := hright.looksLeft_le
    rw [bufBytes_length] at hlooks
    exact ⟨n, t, by omega, hrun, hend⟩
  · obtain ⟨-, -, hout, -⟩ := (seqInv_configuring hst).mp hseq
    have hcourse : OnCourse s.pending s := ⟨hseq, by simp [hst], hquiet, .inl ⟨hout, rfl, hpending⟩⟩
    obtain ⟨t, hrun, hend⟩ := hcourse.run hpc
    rw [opsLeft_first] at hrun
    exact ⟨t, hrun, hend⟩

end Sys2Proof.Machine

/-! PROOFS. The words of the picture register encoder (spec/41_encoder.md R120 to R133). -/

namespace Sys2Proof.Machine

/-! ## The quantisation words -/

/-- R120's word is a word of the format IQW (R72), whose fields are read back by that format's lemmas. -/
theorem qw_eq_iqWord (tag : BitVec 7) (value : Byte) : qw tag value = iqWord tag value := rfl

@[simp] theorem qtab_length (a b : Vector Byte 64) : (qtab a b).length = 128 := by simp [qtab]

theorem qtab_intra (a b : Vector Byte 64) (i : Fin 64) :
    (qtab a b)[i.val]? = some (iqWord (BitVec.ofNat 7 (64 + i.val)) a[i]) := by
  rw [qtab, List.getElem?_append_left (by simp)]
  simp [qw_eq_iqWord]

theorem qtab_nonIntra (a b : Vector Byte 64) (i : Fin 64) :
    (qtab a b)[64 + i.val]? = some (iqWord (BitVec.ofNat 7 i.val) b[i]) := by
  rw [qtab, List.getElem?_append_right (by simp)]
  simp [qw_eq_iqWord]

/-- Both matrices at once: in seven bits, 64 past the place is the tag, since the sum wraps at place 64. -/
theorem qtab_tagged (a b : Vector Byte 64) {k : Nat} (hk : k < 128) :
    ∃ v, (qtab a b)[k]? = some (iqWord (BitVec.ofNat 7 (64 + k)) v) := by
  by_cases hintra : k < 64
  · exact ⟨_, qtab_intra a b ⟨k, hintra⟩⟩
  · obtain ⟨i, rfl⟩ := Nat.exists_eq_add_of_le (Nat.le_of_not_lt hintra)
    have htag : BitVec.ofNat 7 (64 + (64 + i)) = BitVec.ofNat 7 i :=
      BitVec.eq_of_toNat_eq (by simp only [BitVec.toNat_ofNat]; omega)
    rw [htag]
    exact ⟨_, qtab_nonIntra a b ⟨i, by omega⟩⟩

/-- What a word of the table says of its place. -/
theorem tag_of_qtab {a b : Vector Byte 64} {k : Nat} {w : Word} (h : (qtab a b)[k]? = some w) :
    k < 128 ∧ w.extractLsb' 8 7 = BitVec.ofNat 7 (64 + k) := by
  obtain ⟨hk, -⟩ := List.getElem?_eq_some_iff.mp h
  rw [qtab_length] at hk
  obtain ⟨v, hv⟩ := qtab_tagged a b hk
  obtain rfl := Option.some.inj (hv.symm.trans h)
  exact ⟨hk, iqWord_tag _ v⟩

/-- The tag at a place, as R122 (b) has it. -/
theorem toNat_tag {k : Nat} (hk : k < 128) :
    (BitVec.ofNat 7 (64 + k)).toNat = if k < 64 then 64 + k else k - 64 := by
  rw [BitVec.toNat_ofNat]
  split <;> omega

/-- Bit 14 of a quantisation word is the highest bit of its tag. -/
theorem bit14_eq_decide (w : Word) : w.getLsbD 14 = decide (64 ≤ (w.extractLsb' 8 7).toNat) := by
  have hbit : w.getLsbD 14 = (w.extractLsb' 8 7).msb := by
    simp [BitVec.msb_eq_getLsbD_last]
  rw [hbit, BitVec.msb_eq_decide]

/-- Settles O11: the tag is the place and 64, modulo 128, and so it names the place. -/
theorem qtabTagsInOrder : Obligations.QtabTagsInOrder := by
  intro a b
  refine ⟨qtab_length a b, fun k w h => ?_, fun tag => ?_⟩
  · obtain ⟨hk, htag⟩ := tag_of_qtab h
    rw [bit14_eq_decide, htag, toNat_tag hk, decide_eq_decide]
    exact ⟨rfl, by split <;> omega⟩
  · have hplace : (tag.toNat + 64) % 128 < 128 := Nat.mod_lt _ (by decide)
    refine ⟨(tag.toNat + 64) % 128, ?_, fun k w h htag => ?_⟩
    · obtain ⟨v, hv⟩ := qtab_tagged a b hplace
      refine ⟨_, hv, (iqWord_tag _ v).trans (BitVec.eq_of_toNat_eq ?_)⟩
      rw [BitVec.toNat_ofNat]
      omega
    · obtain ⟨hk, hplaced⟩ := tag_of_qtab h
      rw [← htag, hplaced, BitVec.toNat_ofNat]
      omega

/-- Settles O12: the table's words have the format IQW, which has the entry at bits 7:0 and leaves bits
31:15 zero. -/
theorem qtabCarriesEntries : Obligations.QtabCarriesEntries := fun a b i =>
  ⟨⟨_, qtab_intra a b i, iqWord_value _ _, iqWord_reserved _ _⟩,
   ⟨_, qtab_nonIntra a b i, iqWord_value _ _, iqWord_reserved _ _⟩⟩

/-! ## The size words -/

/-- In the accepted range a size is at least one and at most 255 macroblocks. -/
theorem mbCount_range {x : Nat} (h1 : 1 ≤ x) (h : x ≤ 4080) : 1 ≤ mbCount x ∧ mbCount x ≤ 255 := by
  unfold mbCount
  omega

/-- The pixel size is the least multiple of 16 that holds the size (R127). -/
theorem mbCount_roundsUp (x : Nat) : x ≤ 16 * mbCount x ∧ 16 * mbCount x < x + 16 := by
  unfold mbCount
  omega

/-- A natural that fits in its field is the field's value. -/
theorem toNat_ofNat_of_fits {n x : Nat} (h : x < 2 ^ n) : (BitVec.ofNat n x).toNat = x :=
  (BitVec.toNat_ofNat x n).trans (Nat.mod_eq_of_lt h)

/-- Two naturals that fit in their fields are packed as the fields' word (R128: `mod32` changes nothing). -/
theorem mod32_pack {x y k n : Nat} (hx : x < 2 ^ n) (hy : y < 2 ^ n) :
    mod32 ((x <<< k) ||| y) = (zext32 (BitVec.ofNat n x) <<< k) ||| zext32 (BitVec.ofNat n y) := by
  have hwide {z : Nat} (hz : z < 2 ^ n) : zext32 (BitVec.ofNat n z) = mod32 z :=
    BitVec.eq_of_toNat_eq (by simp [Nat.mod_eq_of_lt hz])
  rw [hwide hx, hwide hy]
  apply BitVec.eq_of_toNat_eq
  simp [Nat.shiftLeft_eq]

theorem szmb_eq_szmbWord {w h : Nat} (hw : mbCount w ≤ 255) (hh : mbCount h ≤ 255) :
    szmb w h = szmbWord (BitVec.ofNat 8 (mbCount w)) (BitVec.ofNat 8 (mbCount h)) :=
  mod32_pack (by omega) (by omega)

theorem szpx_eq_szpxWord {w h : Nat} (hw : mbCount w ≤ 255) (hh : mbCount h ≤ 255) :
    szpx w h = szpxWord (BitVec.ofNat 12 (16 * mbCount w)) (BitVec.ofNat 12 (16 * mbCount h)) :=
  mod32_pack (by omega) (by omega)

/-- Multiples of 16 are the operands of a well-formed `SIZE_PX`, whose word keeps the mask's bits zero. -/
theorem szpxWord_zeroBits (x y : Nat) :
    szpxWord (BitVec.ofNat 12 (16 * x)) (BitVec.ofNat 12 (16 * y)) &&& 0xF00FF00F#32 = 0 := by
  have hlow (z : Nat) : (BitVec.ofNat 12 (16 * z)).extractLsb' 0 4 = 0 :=
    extract_low_ofNat_of_dvd (by decide) (Nat.dvd_mul_right 16 z)
  have hwf : (Instr.sizePx (BitVec.ofNat 12 (16 * x)) (BitVec.ofNat 12 (16 * y))).wf = true := by
    simp [Instr.wf, hlow]
  exact zeroBits_of_wf hwf (r := .frameSize) rfl

/-- Settles O13: in the accepted range both words are their formats' words, and each field's value fits. -/
theorem sizeWordsKeepFieldsApart : Obligations.SizeWordsKeepFieldsApart := by
  intro w h hw1 hw hh1 hh
  obtain ⟨hcount1, hcount⟩ := mbCount_range hw1 hw
  obtain ⟨-, hcounth⟩ := mbCount_range hh1 hh
  obtain ⟨hcovers, hleast⟩ := mbCount_roundsUp w
  rw [szmb_eq_szmbWord hcount hcounth, szpx_eq_szpxWord hcount hcounth, szmbWord_width,
    szmbWord_height, szmbWord_reserved, szpxWord_width, szpxWord_height]
  exact ⟨hcount1, hcount, by omega, by omega, hcovers, hleast,
    toNat_ofNat_of_fits (by omega), toNat_ofNat_of_fits (by omega), rfl,
    toNat_ofNat_of_fits (by omega), toNat_ofNat_of_fits (by omega), szpxWord_zeroBits _ _⟩

/-! ## The picture-header word -/

/-- R132: for MPEG2 nothing is ORed in. -/
@[simp] theorem phw_mpeg2 (h : PicHdr) : phw .mpeg2 h = h.word := rfl

/-- R131: a bit of the MPEG1 word is set by the fields or by the parameter's pattern. -/
theorem getLsbD_phw_mpeg1 (h : PicHdr) (k : Nat) :
    (phw .mpeg1 h).getLsbD k = (h.word.getLsbD k || Config.mpeg1PicHdrOr.getLsbD k) :=
  BitVec.getLsbD_or

/-- Settles O14: the word's fifteen fields, read at R75's bits, are the header's, field by field. -/
theorem picHdrWordByProfile : Obligations.PicHdrWordByProfile :=
  ⟨fun h => PicHdr.mk.inj (PicHdr.ofWord_word h),
   fun h => ⟨phw_mpeg2 h, PicHdr.ofWord_word h⟩,
   getLsbD_phw_mpeg1,
   PicHdr.word_ofWord⟩

end Sys2Proof.Machine

/-! PROOFS. The bus trace at every step (spec/42_sequencer.md R150, spec/20_memory.md R59): an operation adds
its events where the step pointer stands, and the pointer goes on past it. -/

namespace Sys2Proof.Machine

/-! ## The operation at the step pointer -/

theorem issue_at {s : State} {q : Request} {p : Pc} (hlatch : s.latch = some q) (hpc : s.pc = some p) :
    s.issue = (stepOps q s.fwd s.bwd s.res.startOffset s.modeNext p.step)[p.k]? := by
  rw [State.issue, hlatch, hpc]

/-- Outside Idle the step runs the operation that the step pointer names. -/
theorem step_of_issue {s : State} {i : Instr} (hst : s.envTurn.st ≠ .idle)
    (hi : s.envTurn.issue = some i) : step s = exec i s.envTurn := by
  simp only [step, activity_of_issue hst hi]

/-! ## The operations before a place -/

theorem opsBefore_succ (q : Request) (fwd bwd : Option Surface) (off : Nat) (m1 : Word) (n k : Nat) :
    opsBefore q fwd bwd off m1 ⟨n, k + 1⟩ =
      opsBefore q fwd bwd off m1 ⟨n, k⟩ ++ (stepOps q fwd bwd off m1 n)[k]?.toList := by
  simp [opsBefore, List.take_add_one]

/-- Past a step's last operation stand the same operations as before the next step's first. -/
theorem opsBefore_step_end (q : Request) (fwd bwd : Option Surface) (off : Nat) (m1 : Word) {n k : Nat}
    (h : opCount fwd bwd n ≤ k) :
    opsBefore q fwd bwd off m1 ⟨n + 1, 0⟩ = opsBefore q fwd bwd off m1 ⟨n, k⟩ := by
  rw [← stepOps_length q fwd bwd off m1] at h
  simp [opsBefore, List.range_succ, List.take_of_length_le h]

/-- The step pointer's advance takes in the operation it stood at and no other, also past an empty step 6
(R23, R159). -/
theorem opsBefore_after {q : Request} {fwd bwd : Option Surface} {off : Nat} {m1 : Word} {p : Pc} {i : Instr}
    (h : (stepOps q fwd bwd off m1 p.step)[p.k]? = some i) :
    opsBefore q fwd bwd off m1 (p.after fwd bwd) = opsBefore q fwd bwd off m1 p ++ [i] := by
  obtain ⟨n, k⟩ := p
  have hsucc := opsBefore_succ q fwd bwd off m1 n k
  rw [h, Option.toList_some] at hsucc
  rw [← hsucc]
  unfold Pc.after
  dsimp only
  split
  · rfl
  · next hlast =>
    split
    · next hskip =>
      obtain ⟨rfl, hempty⟩ := hskip
      rw [opsBefore_step_end (n := 6) (k := 0) _ _ _ _ _ (Nat.le_zero.mpr hempty)]
      exact opsBefore_step_end _ _ _ _ _ (Nat.le_of_not_lt hlast)
    · exact opsBefore_step_end _ _ _ _ _ (Nat.le_of_not_lt hlast)

/-- Only steps 1 and 12 read `REG_MODE`: the operations of the others do not depend on the word read. -/
theorem stepOps_word (q : Request) (fwd bwd : Option Surface) (off : Nat) (m m' : Word) {n : Nat}
    (h1 : n ≠ 1) (h12 : n ≠ 12) : stepOps q fwd bwd off m n = stepOps q fwd bwd off m' n := by
  unfold stepOps
  split
  case h_1 => contradiction
  case h_12 => contradiction
  all_goals rfl

/-! ## The trace up to a place -/

/-- `l` is the trace of the operations before a place of the program, for the request, and the surfaces and
the scan's offset that `s` holds. -/
def traceUpTo (q : Request) (s : State) (p : Pc) (l : List BusEvent) : Prop :=
  ∃ m1, l = (opsBefore q s.fwd s.bwd s.res.startOffset m1 p).flatMap busEvents

/-- The operation issued carries the trace to the next place. Step 1's operation is the read of the word on
which the rest of the trace depends. -/
theorem traceUpTo.after {q : Request} {s : State} {p : Pc} {l : List BusEvent} {i : Instr}
    (h : traceUpTo q s p l) (hlatch : s.latch = some q) (hpc : s.pc = some p) (h12 : p.step ≠ 12)
    (hi : s.issue = some i) : traceUpTo q s (p.after s.fwd s.bwd) (l ++ busEvents i) := by
  obtain ⟨m1, rfl⟩ := h
  rw [issue_at hlatch hpc] at hi
  obtain ⟨n, k⟩ := p
  obtain rfl | h1 := eq_or_ne n 1
  · obtain rfl : k = 0 := Nat.lt_one_iff.mp (List.getElem?_eq_some_iff.mp hi).1
    exact ⟨s.modeNext, by rw [opsBefore_after hi]; simp [opsBefore, stepOps]⟩
  · rw [stepOps_word _ _ _ _ s.modeNext m1 h1 h12] at hi
    exact ⟨m1, by rw [opsBefore_after hi]; simp⟩

/-- What the invariant says outside Idle. -/
theorem TraceInv.upTo {s : State} {q : Request} {p : Pc} (h : TraceInv s) (hst : s.st ≠ .idle)
    (hlatch : s.latch = some q) (hpc : s.pc = some p) :
    ∃ l, traceUpTo q s p l ∧ s.trace = l ++ waitMarker s p := by
  have hevents := h q hlatch
  rw [if_neg hst] at hevents
  obtain ⟨m1, hm1⟩ := hevents p hpc
  exact ⟨_, ⟨m1, rfl⟩, hm1⟩

theorem TraceInv.of_upTo {s : State} {q : Request} {p : Pc} {l : List BusEvent} (hst : s.st ≠ .idle)
    (hlatch : s.latch = some q) (hpc : s.pc = some p) (hl : traceUpTo q s p l)
    (htrace : s.trace = l ++ waitMarker s p) : TraceInv s := by
  intro q' hq'
  obtain rfl := Option.some.inj (hlatch.symm.trans hq')
  rw [if_neg hst]
  intro p' hp'
  obtain rfl := Option.some.inj (hpc.symm.trans hp')
  obtain ⟨m1, rfl⟩ := hl
  exact ⟨m1, htrace⟩

theorem TraceInv.of_no_request {s : State} (h : s.latch = none) : TraceInv s := by
  intro q hq
  rw [h] at hq
  cases hq

theorem TraceInv.of_no_event {s : State} (hst : s.st = .idle) (h : s.trace = []) : TraceInv s := by
  intro q _
  rwa [if_pos hst]

/-- Only in step 10 can a wait's marker stand after the operations before the step pointer. -/
theorem waitMarker_of_step_ne {s : State} {p : Pc} (h : p.step ≠ 10) : waitMarker s p = [] :=
  if_neg fun hw => h hw.2

/-! ## The steps -/

/-- The engine's turn is not seen on the bus. -/
theorem TraceInv.envTurn {s : State} (h : TraceInv s) : TraceInv s.envTurn := by
  simpa [TraceInv, waitMarker] using h

/-- The host's turn latches a request only with the trace emptied. -/
theorem TraceInv.of_hostTurn {s t : State} (hst : s.st = .idle) (hlatch : s.latch = none)
    (h : s.hostTurn = .next t) : TraceInv t := by
  rcases hostTurn_cases h with rfl | ⟨q, rest, -, -, haccept⟩ | ⟨rest, -, -, rfl⟩ |
    ⟨a, b, rest, -, rfl⟩ | ⟨rest, -, rfl⟩ | ⟨rest, -, rfl⟩
  · exact .of_no_request hlatch
  · obtain ⟨-, ⟨-, rfl⟩ | ⟨f, -, ⟨-, rfl⟩ | ⟨b, -, rfl⟩⟩⟩ := accept_cases haccept <;>
      exact .of_no_event hst rfl
  · exact .of_no_request hlatch
  · exact .of_no_request hlatch
  · exact .of_no_request hlatch
  · exact .of_no_request rfl

/-- The scan has no bus event, so that step 1 begins with an empty trace. -/
theorem TraceInv.of_finishScan {s : State} {q : Request} (hs : TraceInv s) (hst : s.st = .idle)
    (hlatch : s.latch = some q) (off : Nat) (found : Bool) : TraceInv (s.finishScan off found) := by
  have hempty := hs q hlatch
  rw [if_pos hst] at hempty
  refine .of_upTo (p := ⟨1, 0⟩) nofun hlatch rfl ⟨0, rfl⟩ ?_
  rw [waitMarker_of_step_ne (by decide)]
  simpa [opsBefore, stepOps] using hempty

/-- A step that goes on with a scan has no bus event. -/
theorem TraceInv.of_scanGoesOn {s : State} {q : Request} (hs : TraceInv s) (hst : s.st = .idle)
    (hlatch : s.latch = some q) (sc : Scanner) : TraceInv { s with scan := some sc } := by
  have hempty := hs q hlatch
  rw [if_pos hst] at hempty
  exact .of_no_event hst hempty

/-- What an operation before the transaction's last does: the step pointer one operation further, and the
request, its surfaces and the scan's result as they were. -/
structure Advanced (s t : State) : Prop where
  busy : t.st ≠ .idle
  latch : t.latch = s.latch
  fwd : t.fwd = s.fwd
  bwd : t.bwd = s.bwd
  res : t.res = s.res
  pc : t.pc = s.pc.map (Pc.after s.fwd s.bwd)

/-- Such an operation keeps the trace at the step pointer when it adds its events to those before. -/
theorem TraceInv.of_advanced {s t : State} {q : Request} {p : Pc} {i : Instr} {l : List BusEvent}
    (hl : traceUpTo q s p l) (hlatch : s.latch = some q) (hpc : s.pc = some p) (h12 : p.step ≠ 12)
    (hi : s.issue = some i) (h : Advanced s t) (htrace : t.trace = l ++ busEvents i)
    (hmarker : waitMarker t (p.after s.fwd s.bwd) = []) : TraceInv t := by
  refine .of_upTo h.busy (h.latch.trans hlatch) (by rw [h.pc, hpc]; rfl) (l := l ++ busEvents i) ?_ ?_
  · simpa only [traceUpTo, h.fwd, h.bwd, h.res] using hl.after hlatch hpc h12 hi
  · rw [hmarker, List.append_nil, htrace]

/-- An operation outside the wait adds its events at the end of the trace. -/
theorem TraceInv.of_advanced_outside_wait {s t : State} {q : Request} {p : Pc} {i : Instr}
    (hs : TraceInv s) (hst : s.st ≠ .idle) (hlatch : s.latch = some q) (hpc : s.pc = some p)
    (h10 : p.step ≠ 10) (h12 : p.step ≠ 12) (hi : s.issue = some i) (h : Advanced s t)
    (hwait : t.st ≠ .awaitingCompletion) (htrace : t.trace = s.trace ++ busEvents i) : TraceInv t := by
  obtain ⟨l, hl, hbefore⟩ := hs.upTo hst hlatch hpc
  rw [waitMarker_of_step_ne h10, List.append_nil] at hbefore
  rw [hbefore] at htrace
  exact .of_advanced hl hlatch hpc h12 hi h htrace (waitMarker_of_ne hwait _)

/-- A wait that begins puts its one marker in the trace, and one that holds already has it there. -/
theorem beginWait_trace_marked {s : State} {l : List BusEvent}
    (htrace : s.trace = l ++ waitMarker s ⟨10, 0⟩) :
    (s.beginWait Config.waitCount).trace = l ++ busEvents (.wait Config.waitCount) := by
  rw [beginWait_trace, htrace]
  split
  · next hst => rw [waitMarker, if_pos ⟨hst, rfl⟩]; rfl
  · next hst => rw [waitMarker_of_ne hst, List.append_nil]; rfl

/-- The wait keeps the trace at the step pointer: its event stands there as the marker while it holds, and
as the event of step 10 once it has ended. -/
theorem TraceInv.of_wait {s t : State} {q : Request} (hs : TraceInv s) (hst : s.st ≠ .idle)
    (hlatch : s.latch = some q) (hpc : s.pc = some ⟨10, 0⟩)
    (h : execWait Config.waitCount s = .next t) : TraceInv t := by
  obtain ⟨l, hl, htrace⟩ := hs.upTo hst hlatch hpc
  have hmarked := beginWait_trace_marked htrace
  have ended : ∀ t, Advanced s t → t.trace = l ++ busEvents (.wait Config.waitCount) → TraceInv t :=
    fun t hadv htrace => .of_advanced hl hlatch hpc (by decide) (issue_at hlatch hpc) hadv htrace
      (waitMarker_of_step_ne (by simp [Pc.after, opCount]))
  rcases execWait_cases Config.waitCount s with ⟨-, w, hw, hx⟩ | ⟨-, -, w, hw, hx⟩ | ⟨-, -, hx⟩ <;>
    (rw [hx] at h; cases h)
  · rcases hw with rfl | rfl <;> exact ended _ (by constructor <;> simp) hmarked
  · rcases hw with rfl | rfl <;> exact ended _ (by constructor <;> simp) hmarked
  · refine .of_upTo (l := l) (by simp) (by simpa using hlatch) (by simpa using hpc)
      (by simpa [traceUpTo] using hl) ?_
    rw [hmarked]
    simp [waitMarker, busEvents]

/-- Every operation that the sequencer issues keeps the trace at the step pointer. -/
theorem TraceInv.of_issued {s t : State} {i : Instr} (hseq : SeqInv s) (hs : TraceInv s)
    (hst : s.st ≠ .idle) (hi : s.issue = some i) (h : exec i s = .next t) : TraceInv t := by
  obtain ⟨q, p, hlatch, -, -⟩ := issue_eq_some hi
  rcases issue_cases hseq hst hi with ⟨hc, hpc, rfl⟩ | ⟨hc, ⟨p, hpc, h2, h8⟩, r, v, hev, htr, hsr⟩ |
    ⟨hc, hpc, p, rfl⟩ | ⟨-, -, hpc, rfl⟩ | ⟨-, -, hpc, rfl⟩ | ⟨-, -, rfl⟩
  · cases h
    exact hs.of_advanced_outside_wait hst hlatch hpc (by decide) (by decide) hi
      ⟨hst, rfl, rfl, rfl, rfl, rfl⟩ (by simp [hc]) (by simp [busEvents])
  · rw [exec_of_plainWrite hev htr hsr] at h
    cases h
    exact hs.of_advanced_outside_wait hst hlatch hpc (by omega) (by omega) hi
      ⟨hst, rfl, rfl, rfl, rfl, rfl⟩ (by simp [hc]) (by rw [hev]; rfl)
  · cases h
    exact hs.of_advanced_outside_wait hst hlatch hpc (by decide) (by decide) hi
      ⟨nofun, rfl, rfl, rfl, rfl, rfl⟩ nofun rfl
  · exact hs.of_wait hst hlatch hpc h
  · cases h
    exact hs.of_advanced_outside_wait hst hlatch hpc (by decide) (by decide) hi
      ⟨nofun, rfl, rfl, rfl, rfl, rfl⟩ nofun rfl
  · cases h
    exact .of_no_request rfl

/-- Settles O53, by the case of the step: the host's turn and the scan have no bus event, and an issued
operation puts its own where the step pointer stands. -/
theorem stepKeepsTraceInvariant : Obligations.StepKeepsTraceInvariant := by
  intro s t hseq hs h
  obtain ⟨e, rfl, ⟨hst, hlatch, hhost⟩ | ⟨hst, q, sc, hlatch, -, hscan⟩ | ⟨hst, i, hi, hexec⟩⟩ :=
    step_cases h
  · exact .of_hostTurn hst hlatch hhost
  · rcases hscan with ⟨-, rfl⟩ | ⟨-, -, rfl⟩ | ⟨-, -, w, b, -, ⟨-, -, rfl⟩ | ⟨-, rfl⟩⟩
    · exact hs.envTurn.of_finishScan hst hlatch 0 false
    · exact hs.envTurn.of_scanGoesOn hst hlatch _
    · exact hs.envTurn.of_finishScan hst hlatch _ true
    · exact hs.envTurn.of_scanGoesOn hst hlatch _
  · exact hs.envTurn.of_issued ((seqInv_envTurn s).mpr hseq) hst hi hexec

end Sys2Proof.Machine

/-! PROOFS. The trace of an ended transaction (spec/42_sequencer.md R150, R177 to R179). -/

namespace Sys2Proof.Machine

/-- The program is the operations before step 12 and then the mode exit. -/
theorem program_eq_opsBefore (q : Request) (fwd bwd : Option Surface) (off : Nat) (m1 m12 : Word) :
    program q fwd bwd off m1 m12 = opsBefore q fwd bwd off m1 ⟨12, 0⟩ ++ [.modeExit m12] := by
  have hsteps : List.range 12 = 0 :: List.range' 1 11 := rfl
  rw [program_eq_stepOps, opsBefore_first, hsteps, List.flatMap_cons]
  rfl

/-- The program's trace begins with the read of step 1, which returns its first word. -/
theorem trace_head (q : Request) (fwd bwd : Option Surface) (off : Nat) (m1 : Word) :
    ((opsBefore q fwd bwd off m1 ⟨12, 0⟩).flatMap busEvents).head? = some (.read .mode m1) := by
  have hsteps : List.range 12 = 0 :: 1 :: List.range' 2 10 := rfl
  rw [opsBefore_first, hsteps, List.flatMap_cons, List.flatMap_cons]
  rfl

/-- In Completing a step ends the transaction with the mode exit. -/
theorem step_of_completing {s : State} (hseq : SeqInv s) (hst : s.st = .completing) :
    step s = .next (s.envTurn.modeRmw s.envTurn.modeNext Config.modeIdle).endTransaction := by
  obtain ⟨hsome, -, -, hpc⟩ := (seqInv_completing hst).mp hseq
  obtain ⟨q, hlatch⟩ := Option.isSome_iff_exists.mp hsome
  have hissue : s.envTurn.issue = some (.modeExit s.envTurn.modeNext) := by
    rw [issue_at (q := q) (p := ⟨12, 0⟩) (by rw [envTurn_latch, hlatch]) (by rw [envTurn_pc, hpc])]
    rfl
  exact step_of_issue (by simp [hst]) hissue

/-- In Completing the trace has every event of steps 1 to 11. -/
theorem TraceInv.completing {s : State} {q : Request} (hs : TraceInv s) (hseq : SeqInv s)
    (hst : s.st = .completing) (hlatch : s.latch = some q) : traceUpTo q s ⟨12, 0⟩ s.trace := by
  obtain ⟨-, -, -, hpc⟩ := (seqInv_completing hst).mp hseq
  obtain ⟨l, hl, htrace⟩ := hs.upTo (by simp [hst]) hlatch hpc
  rw [waitMarker_of_step_ne (by decide), List.append_nil] at htrace
  rwa [htrace]

/-- Settles O57: the trace of steps 1 to 11, and then the mode exit's events. -/
theorem endedTransactionIsTheProgram : Obligations.EndedTransactionIsTheProgram := by
  intro s t q hseq hscan htrace hst hlatch hstep
  obtain ⟨m1, hm1⟩ := htrace.completing hseq hst hlatch
  have hresult := hscan.scanned (by simp [hst]) hlatch
  cases (step_of_completing hseq hst).symm.trans hstep
  refine ⟨rfl, rfl, rfl, by simp [Result.withOutcome], by simpa [Result.withOutcome] using hresult,
    m1, s.envTurn.modeNext, ?_⟩
  simp [Result.withOutcome, program_eq_opsBefore, hm1, busEvents]

/-- Settles O58: the trace's first event names the word that step 1 read, and with it the rest follows from
the request, the surfaces and the scan's offset. -/
theorem traceDeterminedByInputs : Obligations.TraceDeterminedByInputs := by
  intro s s' t t' hseq hseq' htrace htrace' hst hst' hlatch hfwd hbwd hoff hhead hdraw hstep hstep'
  obtain ⟨q, hq⟩ := Option.isSome_iff_exists.mp (hseq.latched (by simp [hst])).1
  obtain ⟨m1, hm1⟩ := htrace.completing hseq hst hq
  obtain ⟨m1', hm1'⟩ := htrace'.completing hseq' hst' (hlatch ▸ hq)
  rw [hm1, hm1', trace_head, trace_head] at hhead
  obtain rfl : m1 = m1' := by simpa using hhead
  have hsame : s.trace = s'.trace := by rw [hm1, hm1', hfwd, hbwd, hoff]
  cases (step_of_completing hseq hst).symm.trans hstep
  cases (step_of_completing hseq' hst').symm.trans hstep'
  simp [hsame, hdraw]

end Sys2Proof.Machine

/-! PROOFS. What each operation of the transaction does and leaves unchanged (spec/42_sequencer.md R151 to
R157, R160 to R175). -/

namespace Sys2Proof.Machine

/-! ## Frames of the shared operations -/

theorem wroteRegister_busWrite (s : State) {r : Reg} (v : Word) (hstatus : r ≠ .status) :
    wroteRegister s (s.busWrite r v) r v := by
  have hothers : keepsRegsBut r s (s.busWrite r v) := fun r' hr => by simp [hr]
  exact ⟨rfl, by simp [hstatus], hothers, rfl, by simp [keepsTransaction], rfl, fun _ => rfl⟩

theorem keepsEngine_busWrite (s : State) {r : Reg} (v : Word) (htrigger : r ≠ .trigger) :
    keepsEngine s (s.busWrite r v) := by
  simp [keepsEngine, htrigger]

theorem storeQt_of_ne (qt : Vector Byte 128) {r : Reg} (v : Word) (hiq : r ≠ .iq) : storeQt qt r v = qt := by
  cases r
  case iq => contradiction
  all_goals rfl

theorem keepsTable_busWrite (s : State) {r : Reg} (v : Word) (hiq : r ≠ .iq) :
    keepsTable s (s.busWrite r v) :=
  storeQt_of_ne s.qt v hiq

/-- A read-modify-write of `REG_MODE` changes no other register. -/
theorem keepsRegsBut_modeRmw (s : State) (v : Word) (m : BitVec 4) : keepsRegsBut .mode s (s.modeRmw v m) :=
  fun r' hr => by simp [hr]

/-- What a wait does, however it goes on: its one marker when it begins; and what it leaves unchanged. -/
theorem execWait_frame {n : Nat} {s t : State} (h : execWait n s = .next t) :
    t.st = .awaitingCompletion ∧
    t.trace = (if s.st = .awaitingCompletion then s.trace else s.trace ++ [.wait n]) ∧
    (∀ r, t.reg r = s.reg r) ∧ keepsTransaction s t ∧ keepsMemory s t ∧ keepsTable s t ∧
    t.decodes = s.decodes ∧ t.running = s.running ∧ t.leftover = s.leftover ∧ t.modeNext = s.modeNext := by
  rcases execWait_cases n s with ⟨-, w, rfl | rfl, hx⟩ | ⟨-, -, w, rfl | rfl, hx⟩ | ⟨-, -, hx⟩ <;>
    (rw [hx] at h; cases h; simp [keepsTransaction, keepsMemory, keepsTable])

/-! ## The quantisation table -/

theorem intraTag_eq (i : BitVec 6) : intraTag i = BitVec.ofNat 7 (64 + i.toNat) :=
  BitVec.eq_of_toNat_eq (by simp [intraTag])

theorem nonIntraTag_eq (i : BitVec 6) : nonIntraTag i = BitVec.ofNat 7 i.toNat :=
  BitVec.eq_of_toNat_eq (by simp [nonIntraTag])

/-- R32: a quantisation word loads the entry that its tag names. -/
theorem storeQt_iqWord (qt : Vector Byte 128) (tag : BitVec 7) (v : Byte) (j : Fin 128) :
    (storeQt qt .iq (iqWord tag v))[j] = if j.val = tag.toNat then v else qt[j] := by
  simp only [storeQt, iqWord_tag, iqWord_value, Fin.getElem_fin, Vector.getElem_set, eq_comm]

/-- A write of a quantisation word completes with one register and one table entry changed. -/
theorem exec_writes_entry {i : Instr} {k : Nat} {v : Byte} (hk : k < 128)
    (hev : busEvents i = [.write .iq (qw (BitVec.ofNat 7 k) v)]) (s : State) :
    ∃ t, exec i s = .next t ∧ wroteRegister s t .iq (qw (BitVec.ofNat 7 k) v) ∧ keepsEngine s t ∧
      t.st = s.st ∧ ∀ j : Fin 128, t.qt[j] = if j.val = k then v else s.qt[j] := by
  refine ⟨_, exec_of_plainWrite hev nofun nofun s, wroteRegister_busWrite s _ nofun,
    keepsEngine_busWrite s _ nofun, rfl, fun j => ?_⟩
  have htag : (BitVec.ofNat 7 k).toNat = k := toNat_ofNat_of_fits hk
  rw [busWrite_qt, qw_eq_iqWord, storeQt_iqWord, htag]

/-- Settles O20: the two operations differ in their tag only. -/
theorem iqWritesOneEntry : Obligations.IqWritesOneEntry := by
  refine ⟨fun i v s => exec_writes_entry (by omega) ?_ s, fun i v s => exec_writes_entry (by omega) ?_ s⟩
  · rw [qw_eq_iqWord, ← intraTag_eq]; rfl
  · rw [qw_eq_iqWord, ← nonIntraTag_eq]; rfl

/-! ## Plain writes -/

/-- A plain write to another register than `REG_IQ` completes with that register changed and nothing
else. -/
theorem exec_writes_register {i : Instr} {r : Reg} {v : Word} (hev : busEvents i = [.write r v])
    (htrigger : r ≠ .trigger) (hstatus : r ≠ .status) (hiq : r ≠ .iq) (s : State) :
    ∃ t, exec i s = .next t ∧ wroteRegister s t r v ∧ keepsEngine s t ∧ keepsTable s t ∧ t.st = s.st :=
  ⟨_, exec_of_plainWrite hev htrigger hstatus s, wroteRegister_busWrite s v hstatus,
    keepsEngine_busWrite s v htrigger, keepsTable_busWrite s v hiq, rfl⟩

/-- Settles O21: each of the sixteen operations has one write for its events. -/
theorem plainWritesTouchOneRegister : Obligations.PlainWritesTouchOneRegister := by
  refine ⟨fun w h => ?_, fun w h => ?_, fun h => ?_, ?_, fun a => ?_, fun a => ?_, fun a => ?_, fun a => ?_,
    fun a => ?_, fun a => ?_, fun a => ?_, fun a => ?_, fun a => ?_, fun a => ?_, fun a => ?_, fun a => ?_⟩
  all_goals exact exec_writes_register rfl nofun nofun nofun

/-! ## Steps 1, 9, 11 and 12 -/

/-- With the mode bits 0 the mode word is the word read with its low four bits cleared. -/
theorem modeWord_zero (r : Word) : modeWord r 0 = r &&& 0xFFFFFFF0#32 := BitVec.or_zero

/-- Settles O18: the read-modify-write of `REG_MODE`, and the step pointer's advance. -/
theorem modeEnterClearsModeBits : Obligations.ModeEnterClearsModeBits := by
  intro r s
  refine ⟨_, rfl, ?_⟩
  rw [← modeWord_zero]
  exact ⟨by simp, by simp, keepsRegsBut_modeRmw s r 0, rfl, by simp [keepsTransaction], rfl, fun _ => rfl,
    rfl, rfl, rfl, by simp, by simp, rfl, rfl, rfl⟩

/-- Settles O19: the read-modify-write, and then the fields that the end of a transaction sets. -/
theorem modeExitEndsTransaction : Obligations.ModeExitEndsTransaction := by
  intro r s
  refine ⟨_, rfl, ?_⟩
  have hregs : keepsRegsBut .mode s (s.modeRmw r Config.modeIdle).endTransaction :=
    keepsRegsBut_modeRmw s r Config.modeIdle
  have hdecodes := modeRmw_decodes s r Config.modeIdle
  have hrunning := modeRmw_running s r Config.modeIdle
  have hleftover : (s.modeRmw r Config.modeIdle).endTransaction.leftover =
      (s.leftover || (decide (s.outcome = some .timeout) && s.running.contains s.decodes)) := by
    rw [← hrunning, ← hdecodes]
    rfl
  exact ⟨by simp [modeWord], by simp [modeWord], hregs, rfl, rfl, rfl, rfl, rfl, rfl, rfl, rfl, rfl, rfl, rfl,
    rfl, rfl, rfl, rfl, rfl, rfl, rfl, hdecodes, hrunning, hleftover, rfl, rfl, rfl, fun _ => rfl⟩

/-- Settles O22: the trigger's write starts the decode, and the state is set after it. -/
theorem triggerStartsDecode : Obligations.TriggerStartsDecode := by
  intro p s
  have hword : triggerWord p = if p = .mpeg1 then Config.triggerMpeg1 else Config.triggerMpeg2 := by
    cases p <;> rfl
  refine ⟨_, rfl, ?_⟩
  rw [← hword]
  exact ⟨wroteRegister_busWrite s (triggerWord p) nofun, rfl, rfl, rfl, rfl, rfl, rfl, rfl, rfl⟩

/-- Settles O23: the write of `REG_STATUS` stores nothing. -/
theorem statusClearStoresNothing : Obligations.StatusClearStoresNothing := by
  intro s
  refine ⟨_, rfl, rfl, fun r => ?_, rfl, rfl, by simp [keepsTransaction], rfl, fun _ => rfl,
    keepsEngine_busWrite _ _ nofun, keepsTable_busWrite _ _ nofun⟩
  rw [reg_busWrite, if_neg fun h => h.2 rfl]
  rfl

/-! ## The wait -/

/-- Settles O24: with no timeout event the wait ends by completion. -/
theorem waitConsumesCompletion : Obligations.WaitConsumesCompletion := by
  intro n s hn hevent
  have hx := execWait_of_pending hn hevent
  obtain ⟨hst, hframe⟩ := execWait_frame hx
  exact ⟨_, hx, by simp, rfl, hst, by simp, hframe⟩

/-- Settles O25: of the wait's three ways to go on, the completion is not there. -/
theorem waitTimesOutOrHolds : Obligations.WaitTimesOutOrHolds := by
  intro n s hn
  rcases execWait_cases n s with ⟨hle, -⟩ | ⟨hevent, hallowed, w, hw, hx⟩ | ⟨-, hno, hx⟩
  · omega
  · obtain ⟨hst, hframe⟩ := execWait_frame hx
    refine ⟨_, hx, ?_, hst, ?_, hframe⟩
    · rcases hw with rfl | rfl <;> simp
    · rw [if_pos ⟨hevent, hallowed⟩]
      rcases hw with rfl | rfl <;> simp
  · obtain ⟨hst, hframe⟩ := execWait_frame hx
    refine ⟨_, hx, by simp, hst, ?_, hframe⟩
    rw [if_neg hno]
    simp

end Sys2Proof.Machine

/-! PROOFS. The operands that the request latch gives each operation (spec/42_sequencer.md R151 to R175), and
the events of the whole program (R150). -/

namespace Sys2Proof.Machine

/-! ## The words of the operations -/

theorem busEvents_iqIntra (i : Fin 64) (v : Byte) :
    busEvents (.iqIntra (BitVec.ofNat 6 i.val) v) = [.write .iq (qw (BitVec.ofNat 7 (64 + i.val)) v)] := by
  rw [busEvents, intraTag_eq, toNat_ofNat_of_fits (by omega), qw_eq_iqWord]

theorem busEvents_iqNonintra (i : Fin 64) (v : Byte) :
    busEvents (.iqNonintra (BitVec.ofNat 6 i.val) v) = [.write .iq (qw (BitVec.ofNat 7 i.val) v)] := by
  rw [busEvents, nonIntraTag_eq, toNat_ofNat_of_fits (by omega), qw_eq_iqWord]

/-- R154: in the accepted range the fields of `SIZE_MB` are those of `SZMB`. -/
theorem busEvents_sizeMb {w h : Nat} (hw1 : 1 ≤ w) (hw : w ≤ 4080) (hh1 : 1 ≤ h) (hh : h ≤ 4080) :
    busEvents (.sizeMb (BitVec.ofNat 8 (mbCount w)) (BitVec.ofNat 8 (mbCount h))) =
      [.write .mbSize (szmb w h)] := by
  rw [szmb_eq_szmbWord (mbCount_range hw1 hw).2 (mbCount_range hh1 hh).2]
  rfl

/-- R155: in the accepted range the fields of `SIZE_PX` are those of `SZPX`. -/
theorem busEvents_sizePx {w h : Nat} (hw1 : 1 ≤ w) (hw : w ≤ 4080) (hh1 : 1 ≤ h) (hh : h ≤ 4080) :
    busEvents (.sizePx (BitVec.ofNat 12 (16 * mbCount w)) (BitVec.ofNat 12 (16 * mbCount h))) =
      [.write .frameSize (szpx w h)] := by
  rw [szpx_eq_szpxWord (mbCount_range hw1 hw).2 (mbCount_range hh1 hh).2]
  rfl

/-- R156: the header's word is the word of its fields. -/
theorem busEvents_picHdrOp (q : Request) :
    busEvents (picHdrOp q) = [.write .picHdr (phw q.profile q.hdr)] := by
  rw [picHdrOp, busEvents, PicHdr.word_ofWord]

/-! ## The events of the program -/

/-- R121: step 2 writes the quantisation words in their order. -/
theorem qtabOps_events (q : Request) :
    (qtabOps q).flatMap busEvents = (qtab q.intraQ q.nonIntraQ).map (BusEvent.write .iq) := by
  simp only [qtabOps, qtab, List.flatMap_append, List.flatMap_map, busEvents_iqIntra,
    busEvents_iqNonintra, List.map_append, List.map_map, ← List.map_eq_flatMap, Function.comp_def]

/-- Settles O17: step by step, the words of the operations are the rules' words. -/
theorem programEventsAreRuleWords : Obligations.ProgramEventsAreRuleWords := by
  intro q fwd bwd off m1 m12 hw1 hw hh1 hh
  have hsize : (sizeOps q).flatMap busEvents =
      [.write .mbSize (szmb q.width q.height), .write .frameSize (szpx q.width q.height)] := by
    simp only [sizeOps, List.flatMap_cons, busEvents_sizeMb hw1 hw hh1 hh,
      busEvents_sizePx hw1 hw hh1 hh, List.flatMap_nil, List.append_nil, List.cons_append,
      List.nil_append]
  have henter : (enterOps m1).flatMap busEvents =
      [.read .mode m1, .write .mode (m1 &&& 0xFFFFFFF0#32)] := by
    rw [← modeWord_zero]
    rfl
  simp only [program, List.flatMap_append, henter, qtabOps_events, hsize, List.flatMap_singleton,
    busEvents_picHdrOp, List.append_assoc]
  cases fwd <;> cases bwd <;> rfl

/-! ## The step at a place of the program -/

/-- The step at a place of the program runs the operation that the request latch gives there. -/
theorem step_at {s : State} {q : Request} {p : Pc} {i : Instr} (hst : s.st ≠ .idle)
    (hlatch : s.latch = some q) (hpc : s.pc = some p)
    (hi : (stepOps q s.fwd s.bwd s.res.startOffset s.envTurn.modeNext p.step)[p.k]? = some i) :
    step s = exec i s.envTurn := by
  have hissue := issue_at ((envTurn_latch s).trans hlatch) ((envTurn_pc s).trans hpc)
  rw [envTurn_fwd, envTurn_bwd, envTurn_res, hi] at hissue
  exact step_of_issue (by rwa [envTurn_st]) hissue

/-- At a place with a plain register write the step is that write, and the step pointer goes on. -/
theorem step_writes_and_advances {s : State} {q : Request} {p : Pc} {i : Instr} {r : Reg} {v : Word}
    (hst : s.st = .configuring) (hlatch : s.latch = some q) (hpc : s.pc = some p)
    (hi : (stepOps q s.fwd s.bwd s.res.startOffset s.envTurn.modeNext p.step)[p.k]? = some i)
    (hev : busEvents i = [.write r v]) (htrigger : r ≠ .trigger) (hstatus : r ≠ .status) :
    ∃ t, step s = .next t ∧ wroteRegister s.envTurn t r v ∧ t.pc = some (p.after s.fwd s.bwd) := by
  refine ⟨s.envTurn.busWrite r v, ?_, wroteRegister_busWrite _ v hstatus, by simp [hpc]⟩
  rw [step_at (by simp [hst]) hlatch hpc hi, exec_of_plainWrite hev htrigger hstatus]

theorem step_writes {s : State} {q : Request} {p : Pc} {i : Instr} {r : Reg} {v : Word}
    (hst : s.st = .configuring) (hlatch : s.latch = some q) (hpc : s.pc = some p)
    (hi : (stepOps q s.fwd s.bwd s.res.startOffset s.envTurn.modeNext p.step)[p.k]? = some i)
    (hev : busEvents i = [.write r v]) (htrigger : r ≠ .trigger) (hstatus : r ≠ .status) :
    ∃ t, step s = .next t ∧ wroteRegister s.envTurn t r v := by
  obtain ⟨t, hstep, hwrote, -⟩ := step_writes_and_advances hst hlatch hpc hi hev htrigger hstatus
  exact ⟨t, hstep, hwrote⟩

/-- Settles O3: the step pointer's operation is the one issued, and the start code is what the scan's
look decodes. -/
theorem stepRunsDecodedOperation : Obligations.StepRunsDecodedOperation := by
  refine ⟨fun s i => step_of_issue, fun s q sc w i hst hlatch hscan hhit hi hw hd => ?_⟩
  rw [envTurn_st] at hst
  rw [envTurn_latch] at hlatch
  rw [envTurn_scan] at hscan
  simp only [step, activity_of_scan hst hlatch hscan, scanActivity, if_neg (Nat.not_le.mpr hi), hhit,
    if_true, hw, hd]

/-- Settles O34: each of these steps has one operation. -/
theorem stepEntersTriggersAcknowledgesExits : Obligations.StepEntersTriggersAcknowledgesExits :=
  fun _ _ hst hlatch =>
    ⟨fun hpc => step_at hst hlatch hpc rfl, fun hpc => step_at hst hlatch hpc rfl,
     fun hpc => step_at hst hlatch hpc rfl, fun hpc => step_at hst hlatch hpc rfl,
     fun hpc => step_at hst hlatch hpc rfl⟩

/-! ## Steps 2 to 8 -/

theorem qtabOps_intra (q : Request) (i : Fin 64) :
    (qtabOps q)[i.val]? = some (.iqIntra (BitVec.ofNat 6 i.val) q.intraQ[i]) := by
  rw [qtabOps, List.getElem?_append_left (by simp)]
  simp

theorem qtabOps_nonIntra (q : Request) (i : Fin 64) :
    (qtabOps q)[64 + i.val]? = some (.iqNonintra (BitVec.ofNat 6 i.val) q.nonIntraQ[i]) := by
  rw [qtabOps, List.getElem?_append_right (by simp)]
  simp

/-- Settles O29: place `i` of step 2 has the intra entry, and place `64 + i` the non-intra entry. -/
theorem stepWritesMatrixEntries : Obligations.StepWritesMatrixEntries :=
  fun _ q i hst hlatch =>
    ⟨fun hpc => step_writes hst hlatch hpc (qtabOps_intra q i) (busEvents_iqIntra i _) nofun nofun,
     fun hpc => step_writes hst hlatch hpc (qtabOps_nonIntra q i) (busEvents_iqNonintra i _) nofun nofun⟩

/-- After step 5 comes step 6, or step 7 where neither reference is held (R23, R159). -/
theorem after_priming (fwd bwd : Option Surface) :
    Pc.after fwd bwd ⟨5, 0⟩ = if fwd = none ∧ bwd = none then ⟨7, 0⟩ else ⟨6, 0⟩ := by
  cases fwd <;> cases bwd <;> simp [Pc.after, opCount]

/-- Settles O30: the four places of steps 3 to 5. -/
theorem stepWritesSizesHeaderPriming : Obligations.StepWritesSizesHeaderPriming := by
  intro s q hst hlatch hw1 hw hh1 hh
  refine ⟨fun hpc => ?_, fun hpc => ?_, fun hpc => ?_, fun hpc => ?_⟩
  · exact step_writes_and_advances hst hlatch hpc rfl (busEvents_sizeMb hw1 hw hh1 hh) nofun nofun
  · exact step_writes_and_advances hst hlatch hpc rfl (busEvents_sizePx hw1 hw hh1 hh) nofun nofun
  · exact step_writes_and_advances hst hlatch hpc rfl (busEvents_picHdrOp q) nofun nofun
  · rw [← after_priming]
    exact step_writes_and_advances hst hlatch hpc rfl rfl nofun nofun

/-- After the forward luma address comes the forward chroma address. -/
theorem after_fwdLuma (f : Surface) (bwd : Option Surface) : Pc.after (some f) bwd ⟨6, 0⟩ = ⟨6, 1⟩ := by
  cases bwd <;> simp [Pc.after, opCount]

/-- After the forward chroma address come the backward addresses, or step 7 where there are none. -/
theorem after_fwdChroma (f : Surface) (bwd : Option Surface) :
    Pc.after (some f) bwd ⟨6, 1⟩ = if bwd = none then ⟨7, 0⟩ else ⟨6, 2⟩ := by
  cases bwd <;> simp [Pc.after, opCount]

/-- The backward chroma address is the last of step 6, alone or after the forward addresses. -/
theorem after_bwdChroma_alone (b : Surface) : Pc.after none (some b) ⟨6, 1⟩ = ⟨7, 0⟩ := by
  simp [Pc.after, opCount]

theorem after_bwdChroma (f b : Surface) : Pc.after (some f) (some b) ⟨6, 3⟩ = ⟨7, 0⟩ := by
  simp [Pc.after, opCount]

/-- Settles O31: the places of step 6 count the references held. -/
theorem stepWritesPresentReferences : Obligations.StepWritesPresentReferences := by
  intro s q hst hlatch
  refine ⟨fun f hf => ⟨fun hpc => ?_, fun hpc => ?_⟩, fun b hb => ?_⟩
  · rw [← after_fwdLuma f s.bwd, ← hf]
    exact step_writes_and_advances hst hlatch hpc (by rw [hf]; rfl) rfl nofun nofun
  · rw [← after_fwdChroma f, ← hf]
    exact step_writes_and_advances hst hlatch hpc (by rw [hf]; rfl) rfl nofun nofun
  · cases hf : s.fwd with
    | none =>
      refine ⟨fun hpc => ?_, fun hpc => ?_⟩ <;> rw [if_pos rfl] at hpc
      · exact step_writes hst hlatch hpc (by rw [hf, hb]; rfl) rfl nofun nofun
      · rw [← after_bwdChroma_alone b, ← hf, ← hb]
        exact step_writes_and_advances hst hlatch hpc (by rw [hf, hb]; rfl) rfl nofun nofun
    | some f =>
      refine ⟨fun hpc => ?_, fun hpc => ?_⟩ <;> rw [if_neg nofun] at hpc
      · exact step_writes hst hlatch hpc (by rw [hf, hb]; rfl) rfl nofun nofun
      · rw [← after_bwdChroma f b, ← hf, ← hb]
        exact step_writes_and_advances hst hlatch hpc (by rw [hf, hb]; rfl) rfl nofun nofun

/-- Settles O32: the four places of step 7. -/
theorem stepWritesOutputSurface : Obligations.StepWritesOutputSurface :=
  fun _ _ hst hlatch =>
    ⟨fun hpc => step_writes hst hlatch hpc rfl rfl nofun nofun,
     fun hpc => step_writes hst hlatch hpc rfl rfl nofun nofun,
     fun hpc => step_writes hst hlatch hpc rfl rfl nofun nofun,
     fun hpc => step_writes hst hlatch hpc rfl rfl nofun nofun⟩

/-- Settles O33: the four places of step 8. -/
theorem stepWritesBitstreamWindow : Obligations.StepWritesBitstreamWindow :=
  fun _ _ hst hlatch =>
    ⟨fun hpc => step_writes hst hlatch hpc rfl rfl nofun nofun,
     fun hpc => step_writes hst hlatch hpc rfl rfl nofun nofun,
     fun hpc => step_writes hst hlatch hpc rfl rfl nofun nofun,
     fun hpc => step_writes hst hlatch hpc rfl rfl nofun nofun⟩

end Sys2Proof.Machine

/-! PROOFS. Phase 0, the host during a transaction, and the registers of an absent reference
(spec/42_sequencer.md R150, R159, R176; spec/60_exceptions.md R201 to R208). -/

namespace Sys2Proof.Machine

/-! ## Phase 0 -/

/-- In an open session a request is taken from the host's moves and checked. -/
theorem hostTurn_request {s : State} {q : Request} {rest : List HostMove} (hopen : s.sessionOpen = true)
    (h : s.host = .request q :: rest) : s.hostTurn = { s with host := rest }.accept q := by
  simp [State.hostTurn, h, hopen]

/-- What the entry into `INVALID_REFERENCE` leaves after the engine's turn (R201, R208). -/
theorem raiseInvalidReference_frame {s : State} (hst : s.st = .idle) (hlatch : s.latch = none)
    (rest : List HostMove) (which : RefInfo) {t : State}
    (h : t = { s.envTurn with host := rest }.raiseInvalidReference which) :
    t.res = ⟨.invalidReference, false, 0, which⟩ ∧ t.resValid = true ∧ t.st = .idle ∧ t.latch = none ∧
    t.trace = [] ∧ (∀ r, t.reg r = s.reg r) ∧ t.qt = s.qt ∧ t.pending = s.envTurn.pending ∧
    t.host = rest := by
  subst h
  exact ⟨rfl, rfl, by simp [hst], by simp [hlatch], rfl, reg_envTurn s, envTurn_qt s, rfl, rfl⟩

/-- Settles O39: the checks of phase 0, in the order in which the acceptance makes them. -/
theorem acceptanceChecksInOrder : Obligations.AcceptanceChecksInOrder := by
  intro s q rest hst hlatch hopen hhost
  have hstep : step s = { s.envTurn with host := rest }.accept q := by
    rw [step_eq_hostTurn hst hlatch, hostTurn_request (by rwa [envTurn_sessionOpen]) (by rwa [envTurn_host])]
  unfold State.accept at hstep
  split
  · next hwf => rw [hstep, hwf]; rfl
  · next hwf hfwd =>
    simp only [hwf, hfwd, if_true] at hstep
    exact ⟨_, hstep, raiseInvalidReference_frame hst hlatch rest .fwd rfl⟩
  · next hwf hfwd hbwd =>
    simp only [hwf, hfwd, hbwd, if_true] at hstep
    exact ⟨_, hstep, raiseInvalidReference_frame hst hlatch rest .bwd rfl⟩
  · next hwf hfwd hbwd =>
    simp only [hwf, hfwd, hbwd, if_true] at hstep
    exact ⟨_, hstep, rfl, rfl, rfl, by simp [hst], rfl, rfl, by simp, reg_envTurn s, rfl, rfl⟩

/-! ## The host during a transaction -/

/-- The host's coming moves, what it has read, and the session are the same. -/
def keepsHost (s t : State) : Prop :=
  t.host = s.host ∧ t.delivered = s.delivered ∧ t.sessionOpen = s.sessionOpen

/-- No operation is the host's. -/
theorem Ran.keepsHost {s t : State} {i : Instr} (h : Ran s i t) : keepsHost s t := by
  cases h with
  | waitCompletes n w hw _ => rcases hw with rfl | rfl <;> simp [Machine.keepsHost]
  | waitTimesOut n w hw _ _ => rcases hw with rfl | rfl <;> simp [Machine.keepsHost]
  | waitHolds => simp [Machine.keepsHost]
  | codeFound | codeSkipped | modeEnter | plainWrite | trigger | statusClear | modeExit =>
    exact ⟨rfl, rfl, rfl⟩

/-- Only the mode exit lets the request go, and it enters Idle. -/
theorem Ran.latch_or_idle {s t : State} {i : Instr} (h : Ran s i t) :
    t.latch = s.latch ∨ (t.latch = none ∧ t.st = .idle) := by
  cases h with
  | modeExit => exact .inr ⟨rfl, rfl⟩
  | waitCompletes n w hw _ => left; rcases hw with rfl | rfl <;> simp
  | waitTimesOut n w hw _ _ => left; rcases hw with rfl | rfl <;> simp
  | waitHolds => left; simp
  | codeFound | codeSkipped | modeEnter | plainWrite | trigger | statusClear => exact .inl rfl

/-- Settles O41: with a request latched, or outside Idle, the step is a look of the scan or an operation. -/
theorem hostWaitsDuringTransaction : Obligations.HostWaitsDuringTransaction := by
  intro s t h hbusy
  rw [← envTurn_st, ← envTurn_latch] at hbusy
  rw [← envTurn_host s, ← envTurn_delivered s, ← envTurn_sessionOpen s, ← envTurn_latch s]
  obtain ⟨e, rfl, ⟨hst, hlatch, -⟩ | ⟨-, q, sc, -, -, hscan⟩ | ⟨-, i, -, hexec⟩⟩ := step_cases h
  · exact hbusy.elim (absurd hst) (absurd hlatch)
  · rcases hscan with ⟨-, rfl⟩ | ⟨-, -, rfl⟩ | ⟨-, -, w, b, -, ⟨-, -, rfl⟩ | ⟨-, rfl⟩⟩ <;>
      exact ⟨rfl, rfl, rfl, .inl rfl⟩
  · have hran := ran_of_exec hexec
    obtain ⟨hhost, hdelivered, hopen⟩ := hran.keepsHost
    exact ⟨hhost, hdelivered, hopen, hran.latch_or_idle⟩

/-! ## The registers of an absent reference -/

/-- The place in R150's program of the operation that writes a reference register. -/
def referencePlace : Reg → Option Nat
  | .fwdLuma => some 133
  | .fwdChroma => some 134
  | .bwdLuma => some 135
  | .bwdChroma => some 136
  | _ => none

/-- Only the operation at that place writes the register. -/
theorem place_of_lastWrite {i : Instr} {r : Reg} {v : Word} {k : Nat} (hr : referencePlace r = some k)
    (h : lastWrite r (busEvents i) = some v) : place i = some k := by
  unfold referencePlace at hr
  split at hr
  case h_5 => cases hr
  all_goals
    cases hr
    cases i
    all_goals simp [busEvents, lastWrite, place] at h ⊢

/-- The operations of a step have places of the whole transaction. -/
theorem place_of_stepOps {q : Request} {fwd bwd : Option Surface} {off : Nat} {m : Word} {n : Nat}
    {i : Instr} (h : i ∈ stepOps q fwd bwd off m n) :
    place i ∈ (placesOf fwd.isSome bwd.isSome).map some := by
  rw [← program_places q fwd bwd off m m]
  refine List.mem_map_of_mem ?_
  rw [program_eq_stepOps, List.mem_append, List.mem_flatMap]
  by_cases hn : n ∈ List.range' 1 11
  · exact .inl ⟨n, hn, h⟩
  · unfold stepOps at h
    split at h
    case h_12 => exact .inr h
    case h_13 => cases h
    all_goals exact absurd (by decide) hn

/-- An issued operation writes no register whose place the references held leave out (R159). -/
theorem lastWrite_of_issue {s : State} {i : Instr} (hi : s.issue = some i) {r : Reg} {k : Nat}
    (hr : referencePlace r = some k) (habsent : k ∉ placesOf s.fwd.isSome s.bwd.isSome) :
    lastWrite r (busEvents i) = none := by
  obtain ⟨q, p, -, -, hstep⟩ := issue_eq_some hi
  refine Option.eq_none_iff_forall_not_mem.mpr fun v hv => habsent ?_
  have hplace := place_of_stepOps (List.mem_of_getElem? hstep)
  rw [place_of_lastWrite hr hv] at hplace
  simpa using hplace

/-- Such a register reads as before after every step but a session start. -/
theorem step_keeps_absent_reference {s t : State} (h : step s = .next t)
    (hstart : ¬ (s.st = .idle ∧ s.latch = none ∧ s.host.head? = some .sessionStart)) {r : Reg} {k : Nat}
    (hr : referencePlace r = some k) (habsent : k ∉ placesOf s.fwd.isSome s.bwd.isSome) :
    t.reg r = s.reg r := by
  rw [← envTurn_st, ← envTurn_latch, ← envTurn_host] at hstart
  rw [← envTurn_fwd, ← envTurn_bwd] at habsent
  rw [← reg_envTurn s]
  obtain ⟨e, rfl, ⟨hst, hlatch, hhost⟩ | ⟨-, q, sc, -, -, hscan⟩ | ⟨-, i, hi, hexec⟩⟩ := step_cases h
  · rcases hostTurn_registers hhost with ⟨hreg, -⟩ | ⟨hhead, -⟩
    · exact hreg r
    · exact absurd ⟨hst, hlatch, hhead⟩ hstart
  · rcases hscan with ⟨-, rfl⟩ | ⟨-, -, rfl⟩ | ⟨-, -, w, b, -, ⟨-, -, rfl⟩ | ⟨-, rfl⟩⟩ <;> rfl
  · rw [(ran_of_exec hexec).reg, lastWrite_of_issue hi hr habsent, Option.none_or, ite_self]

/-- Settles O48: with no forward surface the places 133 and 134 are left out, and with no backward surface
135 and 136. -/
theorem absentReferenceLeavesRegisters : Obligations.AbsentReferenceLeavesRegisters := by
  intro s t h hstart
  have hfwd (b : Bool) : 133 ∉ placesOf false b ∧ 134 ∉ placesOf false b := by cases b <;> decide
  have hbwd (f : Bool) : 135 ∉ placesOf f false ∧ 136 ∉ placesOf f false := by cases f <;> decide
  refine ⟨fun hf => ⟨?_, ?_⟩, fun hb => ⟨?_, ?_⟩⟩
  · exact step_keeps_absent_reference h hstart rfl (by rw [hf]; exact (hfwd _).1)
  · exact step_keeps_absent_reference h hstart rfl (by rw [hf]; exact (hfwd _).2)
  · exact step_keeps_absent_reference h hstart rfl (by rw [hb]; exact (hbwd _).1)
  · exact step_keeps_absent_reference h hstart rfl (by rw [hb]; exact (hbwd _).2)

end Sys2Proof.Machine

/-! PROOFS. The wait and its events (spec/42_sequencer.md R173; spec/60_exceptions.md R203, R204, R207): which
step takes completion events, which event ends a wait that has both, and a wait that has neither. -/

namespace Sys2Proof.Machine

/-! ## Who takes completion events -/

/-- Only a satisfied wait takes events from `pending`; every other operation keeps their number. -/
theorem Ran.pending {s t : State} {i : Instr} (h : Ran s i t) :
    t.pending = s.pending ∨ ∃ n, i = .wait n ∧ n ≤ s.pending ∧ t.pending = s.pending - n := by
  cases h with
  | waitCompletes n w hw hn => exact .inr ⟨n, rfl, hn, by rcases hw with rfl | rfl <;> simp⟩
  | waitTimesOut n w hw _ _ => left; rcases hw with rfl | rfl <;> simp
  | waitHolds => left; simp
  | plainWrite i r v _ _ _ => left; simp
  | codeFound | codeSkipped | modeEnter | trigger | statusClear | modeExit => exact .inl rfl

/-- Of the host's moves only a session start touches `pending` (R207). -/
theorem hostTurn_pending {s t : State} (h : s.hostTurn = .next t) :
    t.pending = s.pending ∨ ∃ rest, s.host = .sessionStart :: rest := by
  rcases hostTurn_cases h with rfl | ⟨q, rest, -, -, haccept⟩ | ⟨rest, -, -, rfl⟩ |
    ⟨a, b, rest, -, rfl⟩ | ⟨rest, -, rfl⟩ | ⟨rest, hhost, -⟩
  · exact .inl rfl
  · obtain ⟨-, ⟨-, rfl⟩ | ⟨f, -, ⟨-, rfl⟩ | ⟨b, -, rfl⟩⟩⟩ := accept_cases haccept <;> exact .inl rfl
  · exact .inl rfl
  · exact .inl rfl
  · exact .inl rfl
  · exact .inr ⟨rest, hhost⟩

/-- Settles O47, by the case of the step: the host's turn, a look of the scan, or an operation. -/
theorem onlyWaitConsumesCompletions : Obligations.OnlyWaitConsumesCompletions := by
  intro s t h hless
  obtain ⟨e, rfl, ⟨hst, hlatch, hhost⟩ | ⟨-, q, sc, -, -, hscan⟩ | ⟨hst, i, hi, hexec⟩⟩ := step_cases h
  · rw [envTurn_st] at hst
    rw [envTurn_latch] at hlatch
    rcases hostTurn_pending hhost with hkeeps | hstart
    · exact absurd hkeeps hless.ne
    · rw [envTurn_host] at hstart
      exact .inr ⟨hst, hlatch, hstart⟩
  · have hkeeps : t.pending = s.envTurn.pending := by
      rcases hscan with ⟨-, rfl⟩ | ⟨-, -, rfl⟩ | ⟨-, -, w, b, -, ⟨-, -, rfl⟩ | ⟨-, rfl⟩⟩ <;> rfl
    exact absurd hkeeps hless.ne
  · rw [envTurn_st] at hst
    rcases (ran_of_exec hexec).pending with hkeeps | ⟨n, rfl, hn, htaken⟩
    · exact absurd hkeeps hless.ne
    · exact .inl ⟨n, hst, hi, hn, htaken⟩

/-! ## A wait with both events -/

/-- With its events there and an allowed timeout event too, the free value says which ends the wait (R204,
entry 14). -/
theorem execWait_of_both {s : State} {n : Nat} (hn : n ≤ s.pending) (hevent : s.timeoutEvent = true)
    (hallowed : Config.waitTimeout = true) :
    execWait n s = if Config.waitChoice s.draws = true then .next (s.beginWait n).drew.waitTimesOut
      else .next ((s.beginWait n).drew.waitCompletes n) := by
  simp [execWait, hn, hevent, hallowed]

/-- Where the parameter allows no timeout, a wait with its events there ends by completion. -/
theorem execWait_of_pending_barred {s : State} {n : Nat} (hn : n ≤ s.pending)
    (hbarred : Config.waitTimeout ≠ true) :
    execWait n s = .next ((s.beginWait n).waitCompletes n) := by
  simp [execWait, hn, hbarred]

/-- Settles O26, by the parameter and then by the free value. -/
theorem waitWithBothEndsEitherWay : Obligations.WaitWithBothEndsEitherWay := by
  intro n s hn hevent
  by_cases hallowed : Config.waitTimeout = true
  · have hx := execWait_of_both hn hevent hallowed
    by_cases hchoice : Config.waitChoice s.draws = true
    · rw [if_pos hchoice] at hx
      obtain ⟨hst, hframe⟩ := execWait_frame hx
      exact ⟨_, hx, hst, by simp, by simp [hallowed, hchoice], by simp [hallowed], hframe⟩
    · rw [if_neg hchoice] at hx
      obtain ⟨hst, hframe⟩ := execWait_frame hx
      exact ⟨_, hx, hst, by simp, by simp [hchoice], by simp [hallowed], hframe⟩
  · have hx := execWait_of_pending_barred hn hallowed
    obtain ⟨hst, hframe⟩ := execWait_frame hx
    exact ⟨_, hx, hst, by simp, by simp [hallowed], by simp [hallowed], hframe⟩

/-! ## A wait with neither -/

/-- A wait that holds already, with neither event there, changes nothing (R203, entry 15). -/
theorem execWait_holds {s : State} {n : Nat} (hst : s.st = .awaitingCompletion) (hn : ¬ n ≤ s.pending)
    (hevent : ¬ (s.timeoutEvent = true ∧ Config.waitTimeout = true)) : execWait n s = .next s := by
  have hbegun : s.beginWait n = s := by simp [State.beginWait, hst]
  rcases execWait_cases n s with ⟨hle, -⟩ | ⟨he, ha, -⟩ | ⟨-, -, hx⟩
  · exact absurd hle hn
  · exact absurd ⟨he, ha⟩ hevent
  · rwa [hbegun] at hx

/-- A DFE that stands in its wait with no completion event pending or to come, and no timeout that could end
it: R203's premises. -/
structure Starved (s : State) : Prop where
  inv : SeqInv s
  waiting : s.st = .awaitingCompletion
  place : s.pc = some ⟨10, 0⟩
  noEvent : s.pending = 0
  noCompletion : ∀ ms ∈ s.env, ∀ d, EnvMove.completes d ∉ ms
  noTimeout : Config.waitTimeout = false ∨ ∀ ms ∈ s.env, EnvMove.timeoutFires ∉ ms

/-- A move that is nowhere in the list is not in the next turn. -/
theorem not_mem_next_turn {m : EnvMove} {env : List (List EnvMove)} (h : ∀ ms ∈ env, m ∉ ms) :
    m ∉ env.headD [] := by
  cases env with
  | nil => exact List.not_mem_nil
  | cons ms rest => exact h ms List.mem_cons_self

theorem envTurn_env (s : State) : s.envTurn.env = s.env.tail := by simp [envTurn_eq]

/-- A turn keeps the premises: it adds no event, and the moves after it are among the moves before. -/
theorem Starved.envTurn {s : State} (h : Starved s) : Starved s.envTurn where
  inv := (seqInv_envTurn s).mpr h.inv
  waiting := by rw [envTurn_st, h.waiting]
  place := by rw [envTurn_pc, h.place]
  noEvent := by
    rw [envTurn_eq, envMoves_pending fun d => not_mem_next_turn fun ms hms => h.noCompletion ms hms d]
    exact h.noEvent
  noCompletion := fun ms hms => h.noCompletion ms (List.mem_of_mem_tail (envTurn_env s ▸ hms))
  noTimeout := h.noTimeout.imp id fun hno ms hms => hno ms (List.mem_of_mem_tail (envTurn_env s ▸ hms))

/-- No turn brings a timeout that ends the wait. -/
theorem Starved.no_timeout_event {s : State} (h : Starved s) :
    ¬ (s.envTurn.timeoutEvent = true ∧ Config.waitTimeout = true) := by
  rintro ⟨hevent, hallowed⟩
  rcases h.noTimeout with hbarred | hno
  · simp [hbarred] at hallowed
  · rw [envTurn_eq, envMoves_timeoutEvent] at hevent
    exact hevent.elim nofun (not_mem_next_turn hno)

/-- At the wait's place the sequencer issues the wait. -/
theorem Starved.issues_wait {s : State} (h : Starved s) : s.issue = some (.wait Config.waitCount) := by
  obtain ⟨hlatch, -⟩ := h.inv.latched (by simp [h.waiting])
  obtain ⟨q, hq⟩ := Option.isSome_iff_exists.mp hlatch
  rw [issue_at hq h.place]
  rfl

/-- A step of a starved wait is the engine's and the timer's turn, and nothing more. -/
theorem Starved.step {s : State} (h : Starved s) : step s = .next s.envTurn := by
  have hn : ¬ Config.waitCount ≤ s.envTurn.pending := by
    rw [h.envTurn.noEvent]
    decide
  rw [step_of_issue (by simp [h.waiting]) h.envTurn.issues_wait]
  exact execWait_holds h.envTurn.waiting hn h.no_timeout_event

/-- After any number of steps the wait is starved still, with the trace, the request and the host's moves as
they were. -/
theorem Starved.run {s : State} (h : Starved s) (n : Nat) :
    ∃ t, Sys2Proof.core.run n s = .next t ∧ Starved t ∧ t.trace = s.trace ∧ t.latch = s.latch ∧
      t.host = s.host := by
  induction n generalizing s with
  | zero => exact ⟨s, rfl, h, rfl, rfl, rfl⟩
  | succ n ih =>
    obtain ⟨t, hrun, ht, htrace, hlatch, hhost⟩ := ih h.envTurn
    exact ⟨t, (run_of_step h.step n).trans hrun, ht, by simpa using htrace, by simpa using hlatch,
      by simpa using hhost⟩

/-- Settles O60, by induction on the number of steps: each is the engine's turn alone. -/
theorem waitWithoutEventsHoldsForever : Obligations.WaitWithoutEventsHoldsForever := by
  intro s hinv hst hpc hpending hcompletion htimeout n
  obtain ⟨t, hrun, ht, htrace, hlatch, hhost⟩ :=
    Starved.run ⟨hinv, hst, hpc, hpending, hcompletion, htimeout⟩ n
  exact ⟨t, hrun, ht.waiting, ht.place, htrace, hlatch, ht.noEvent, hhost⟩

end Sys2Proof.Machine

/-! PROOFS. A well-formed request, condition by condition (spec/10_state.md R24, spec/20_memory.md R58), and
the requests that are refused (spec/60_exceptions.md R206). -/

namespace Sys2Proof.Machine

/-! ## The addresses a transaction translates -/

theorem translatable_iff (f : Surface) :
    f.translatable = true ↔ Config.paDefined f.va = true ∧ Config.paDefined (f.va + f.planeSize) = true :=
  Bool.and_eq_true_iff

/-- A reference is translatable when the surface it resolves to is, if it resolves to one. -/
theorem refTranslatable_iff (r : Option Nat) :
    refTranslatable r = true ↔
      ∀ h, r = some h → ∀ f, Config.resolve h = some f → f.translatable = true := by
  cases r with
  | none => simp [refTranslatable]
  | some h => cases hf : Config.resolve h <;> simp [refTranslatable, hf]

/-- `PA` is defined at every address that the transaction translates exactly when it is defined at the
output's planes, at the buffer, and at the planes of each reference. -/
theorem forall_translates_iff (q : Request) :
    (∀ a, translates q a → Config.paDefined a = true) ↔
      q.output.translatable = true ∧ Config.paDefined q.bufVa = true ∧
      refTranslatable q.forwardRef = true ∧ refTranslatable q.backwardRef = true := by
  simp only [refTranslatable_iff, translatable_iff]
  constructor
  · intro hall
    have reference : ∀ h f, (q.forwardRef = some h ∨ q.backwardRef = some h) → Config.resolve h = some f →
        Config.paDefined f.va = true ∧ Config.paDefined (f.va + f.planeSize) = true := fun h f hq hf =>
      ⟨hall _ (.inr (.inr (.inr ⟨h, f, hq, hf, .inl rfl⟩))),
        hall _ (.inr (.inr (.inr ⟨h, f, hq, hf, .inr rfl⟩)))⟩
    exact ⟨⟨hall _ (.inl rfl), hall _ (.inr (.inl rfl))⟩, hall _ (.inr (.inr (.inl rfl))),
      fun h hq f => reference h f (.inl hq), fun h hq f => reference h f (.inr hq)⟩
  · rintro ⟨⟨hluma, hchroma⟩, hbuf, hfwd, hbwd⟩ a (rfl | rfl | rfl | ⟨h, f, hq, hf, ha⟩)
    · exact hluma
    · exact hchroma
    · exact hbuf
    · have hplanes := hq.elim (hfwd h · f hf) (hbwd h · f hf)
      rcases ha with rfl | rfl
      · exact hplanes.1
      · exact hplanes.2

/-- `WF(req)`: R24's ranges, and `PA` defined at every address to translate (R58). -/
theorem wf_iff (q : Request) :
    q.wf = true ↔ 1 ≤ q.width ∧ q.width ≤ 4080 ∧ 1 ≤ q.height ∧ q.height ≤ 4080 ∧
      q.len ≤ Config.vbvCapacity ∧ ∀ a, translates q a → Config.paDefined a = true := by
  simp only [forall_translates_iff, Request.wf, Bool.and_eq_true, decide_eq_true_eq, and_assoc]

/-- A request that breaks one of the conditions is not well formed. -/
theorem not_wf_of_violation {q : Request}
    (h : q.width < 1 ∨ 4080 < q.width ∨ q.height < 1 ∨ 4080 < q.height ∨ Config.vbvCapacity < q.len ∨
      ∃ a, translates q a ∧ Config.paDefined a = false) : q.wf = false := by
  refine Bool.eq_false_iff.mpr fun hwf => ?_
  obtain ⟨hw1, hw, hh1, hh, hlen, hall⟩ := (wf_iff q).mp hwf
  rcases h with h | h | h | h | h | ⟨a, ha, hundef⟩
  on_goal 6 => exact absurd (hall a ha) (by simp [hundef])
  all_goals omega

/-! ## Acceptance -/

/-- Settles O40: the checks of phase 0 (O39), with R24's ranges as what it is to be well formed. -/
theorem outOfRangeRequestRefused : Obligations.OutOfRangeRequestRefused := by
  intro s q rest hst hlatch hopen hhost
  have hchecks := acceptanceChecksInOrder s q rest hst hlatch hopen hhost
  refine ⟨fun hbad => ?_, fun hgood => ⟨(wf_iff q).mpr hgood, fun f b hfwd hbwd => ?_⟩⟩
  · rw [not_wf_of_violation hbad] at hchecks
    exact hchecks
  · rw [(wf_iff q).mpr hgood, hfwd, hbwd] at hchecks
    obtain ⟨t, hstep, htlatch, htfwd, htbwd, -⟩ := hchecks
    exact ⟨t, hstep, htlatch, htfwd, htbwd⟩

end Sys2Proof.Machine

/-! PROOFS. The buffer in a transaction, and the session's end and start (spec/10_state.md R46;
spec/70_reset_and_hazards.md R240, R243, R252). -/

namespace Sys2Proof.Machine

/-! ## The buffer in a transaction -/

/-- With a request latched the step itself writes no memory: it is no move of the host, a look of the scan
only reads (R103), and no operation writes (R51). What is stored is the engine's. -/
theorem step_mem_of_latched {s t : State} {q : Request} (h : step s = .next t) (hlatch : s.latch = some q) :
    t.mem = s.envTurn.mem := by
  obtain ⟨e, rfl, ⟨-, hnone, -⟩ | ⟨-, q', sc, -, -, hscan⟩ | ⟨-, i, -, hexec⟩⟩ := step_cases h
  · rw [envTurn_latch, hlatch] at hnone
    cases hnone
  · rcases hscan with ⟨-, rfl⟩ | ⟨-, -, rfl⟩ | ⟨-, -, w, b, -, ⟨-, -, rfl⟩ | ⟨-, rfl⟩⟩ <;> rfl
  · exact (ran_of_exec hexec).mem

/-- Settles O42: only the engine's turn stores anything, and it keeps the latched buffer. -/
theorem bufferStableDuringTransaction : Obligations.BufferStableDuringTransaction := by
  intro s t q h hlatch
  rw [step_mem_of_latched h hlatch, envTurn_bufBytes hlatch]

/-! ## The session -/

/-- A teardown ends the session and does nothing else (R243). -/
theorem hostTurn_teardown {s : State} {rest : List HostMove} (h : s.host = .teardown :: rest) :
    s.hostTurn = .next { s with host := rest, sessionOpen := false } := by
  simp [State.hostTurn, h]

/-- A request in a closed session stays among the host's moves (R243, entry 18). -/
theorem hostTurn_request_of_closed {s : State} {q : Request} {rest : List HostMove}
    (hclosed : s.sessionOpen = false) (h : s.host = .request q :: rest) : s.hostTurn = .next s := by
  simp [State.hostTurn, h, hclosed]

/-- A session start is taken whether or not the session is open (R240, entry 35). -/
theorem hostTurn_sessionStart {s : State} {rest : List HostMove} (h : s.host = .sessionStart :: rest) :
    s.hostTurn = .next { s with host := rest }.sessionStart := by
  simp [State.hostTurn, h]

/-- Settles O44: at Idle with no request latched the step is the host's move after the engine's turn, and
that turn keeps what the three clauses name. -/
theorem sessionEndsAndStarts : Obligations.SessionEndsAndStarts := by
  refine ⟨?teardown, ?request, ?sessionStart⟩
  case teardown =>
    intro s rest hst hlatch hhost
    have hstep := (step_eq_hostTurn hst hlatch).trans (hostTurn_teardown ((envTurn_host s).trans hhost))
    exact ⟨_, hstep, rfl, reg_envTurn s, envTurn_trace s, rfl, (envTurn_st s).trans hst,
      (envTurn_latch s).trans hlatch⟩
  case request =>
    intro s q rest hst hlatch hclosed hhost
    exact (step_eq_hostTurn hst hlatch).trans (hostTurn_request_of_closed
      ((envTurn_sessionOpen s).trans hclosed) ((envTurn_host s).trans hhost))
  case sessionStart =>
    intro s rest hst hlatch hhost
    have hstep := (step_eq_hostTurn hst hlatch).trans (hostTurn_sessionStart ((envTurn_host s).trans hhost))
    have hdraws : s.envTurn.draws = s.draws := envTurn_draws s
    exact ⟨_, hstep, rfl, rfl, rfl, rfl, rfl, rfl, rfl, reg_sessionStart _, congrArg Config.modeDraw hdraws,
      congrArg (· + 1) hdraws, congrArg resetTable hdraws, rfl, rfl, rfl, rfl, rfl⟩

end Sys2Proof.Machine

/-! PROOFS. The canonical form of the memory at every step (spec/20_memory.md R51; entry 34). -/

namespace Sys2Proof.Machine

/-- The invariant sees nothing but the memory. -/
theorem MemInv.of_mem_eq {s t : State} (hs : MemInv s) (h : t.mem = s.mem) : MemInv t := by
  rwa [MemInv, h]

/-- What stores one byte keeps the canonical form. -/
theorem MemInv.of_store {s t : State} {a : Nat} {b : Byte} (hs : MemInv s)
    (h : t.mem = Memory.write s.mem a b) : MemInv t := by
  rw [MemInv, h]
  exact Memory.wf_write hs a b

/-- One move of the engine or the timer stores at most one pixel. -/
theorem MemInv.envMove {s : State} (hs : MemInv s) (m : EnvMove) : MemInv (s.envMove m) := by
  rcases envMove_cases s m with hm | ⟨d, -, -, hm⟩ | ⟨w, hm⟩ | ⟨-, a, b, -, hm⟩ | hm <;> rw [hm]
  · exact hs
  · exact hs.of_mem_eq rfl
  · exact hs.of_mem_eq rfl
  · exact hs.of_store rfl
  · exact hs.of_mem_eq rfl

theorem MemInv.envTurn {s : State} (hs : MemInv s) : MemInv s.envTurn :=
  envTurn_keeps s (fun _ => hs.of_mem_eq rfl) fun _ m he => he.envMove m

/-- The host's turn stores at most one byte; a request, also one that fails, and a session start store
none. -/
theorem MemInv.of_hostTurn {s t : State} (hs : MemInv s) (h : s.hostTurn = .next t) : MemInv t := by
  rcases hostTurn_cases h with rfl | ⟨q, rest, -, -, haccept⟩ | ⟨rest, -, -, rfl⟩ |
    ⟨a, b, rest, -, rfl⟩ | ⟨rest, -, rfl⟩ | ⟨rest, -, rfl⟩
  · exact hs
  · obtain ⟨-, ⟨-, rfl⟩ | ⟨f, -, ⟨-, rfl⟩ | ⟨b, -, rfl⟩⟩⟩ := accept_cases haccept <;>
      exact hs.of_mem_eq rfl
  · exact hs.of_mem_eq rfl
  · exact hs.of_store rfl
  · exact hs.of_mem_eq rfl
  · exact hs.of_mem_eq rfl

/-- Settles O49: the engine's and the host's turns store by `Memory.write`; the scan and the operations
store nothing. -/
theorem stepKeepsMemoryCanonical : Obligations.StepKeepsMemoryCanonical := by
  intro s t hs h
  have hturn : MemInv s.envTurn := hs.envTurn
  obtain ⟨e, rfl, ⟨-, -, hhost⟩ | ⟨-, q, sc, -, -, hscan⟩ | ⟨-, i, -, hexec⟩⟩ := step_cases h
  · exact hturn.of_hostTurn hhost
  · rcases hscan with ⟨-, rfl⟩ | ⟨-, -, rfl⟩ | ⟨-, -, w, b, -, ⟨-, -, rfl⟩ | ⟨-, rfl⟩⟩ <;>
      exact hturn.of_mem_eq rfl
  · exact hturn.of_mem_eq (ran_of_exec hexec).mem

end Sys2Proof.Machine

/-! PROOFS. A table word placed as the next operation (spec/30_encoding.md R85; entries 21 and 22): for each
row that the table decoder answers, the state it is placed in is one whose step runs it. -/

namespace Sys2Proof.Machine

/-- The operation runs as the next step where it is placed. -/
def RunsWhenPlaced (s : State) (i : Instr) : Prop :=
  step (s.place i) = exec i (s.place i).envTurn

/-! ## Operations of the transaction -/

/-- A state made to stand at a place of the program runs the operation of that place next. The turn it is
given has no move, so the word that `REG_MODE` returns is the one held. -/
theorem step_standAt {s : State} {st : SeqState} {p : Pc} {q : Request} {i : Instr} (hst : st ≠ .idle)
    (hi : (stepOps q s.fwd s.bwd s.res.startOffset s.modeNext p.step)[p.k]? = some i) :
    step (s.standAt st p q) = exec i (s.standAt st p q).envTurn :=
  step_at hst rfl rfl hi

theorem runsWhenPlaced_modeEnter (s : State) (w : Word) : RunsWhenPlaced s (.modeEnter w) :=
  step_standAt nofun rfl

/-- The matrix entry placed is the one that its place of step 2 writes. -/
theorem runsWhenPlaced_iqIntra (s : State) (j : BitVec 6) (v : Byte) :
    RunsWhenPlaced s (.iqIntra j v) :=
  step_standAt nofun ((qtabOps_intra _ ⟨j.toNat, j.isLt⟩).trans (by simp))

theorem runsWhenPlaced_iqNonintra (s : State) (j : BitVec 6) (v : Byte) :
    RunsWhenPlaced s (.iqNonintra j v) :=
  step_standAt nofun ((qtabOps_nonIntra _ ⟨j.toNat, j.isLt⟩).trans (by simp))

/-- A multiple of 16 is rounded up to itself (R125). -/
theorem mbCount_mul (n : Nat) : mbCount (16 * n) = n := by
  unfold mbCount
  omega

theorem runsWhenPlaced_sizeMb (s : State) (w h : BitVec 8) : RunsWhenPlaced s (.sizeMb w h) := by
  refine step_standAt nofun (congrArg some ?_)
  simp [mbCount_mul]

/-- A pixel size with zero low bits is its own rounding up (R126, R127). -/
theorem ofNat_mbCount_of_low_zero {x : BitVec 12} (h : x.extractLsb' 0 4 = 0) :
    BitVec.ofNat 12 (16 * mbCount x.toNat) = x := by
  have hlow : x.toNat % 16 = 0 := by simpa using congrArg BitVec.toNat h
  rw [mbCount, show 16 * ((x.toNat + 15) / 16) = x.toNat by omega, BitVec.ofNat_toNat, BitVec.setWidth_eq]

theorem runsWhenPlaced_sizePx (s : State) {w h : BitVec 12} (hwf : (Instr.sizePx w h).wf = true) :
    RunsWhenPlaced s (.sizePx w h) := by
  obtain ⟨hw, hh⟩ : w.extractLsb' 0 4 = 0 ∧ h.extractLsb' 0 4 = 0 := by simpa [Instr.wf] using hwf
  refine step_standAt nofun (congrArg some ?_)
  rw [ofNat_mbCount_of_low_zero hw, ofNat_mbCount_of_low_zero hh]

/-- An MPEG2 header's fields are those of its own word (R132). -/
theorem runsWhenPlaced_picHdr (s : State) (h : PicHdr) : RunsWhenPlaced s (.picHdr h) := by
  refine step_standAt nofun (congrArg some ?_)
  simp [picHdrOp]

/-- An offset in bits with zero low bits is that of a whole byte (R168). -/
theorem vldOffsetBits_div_of_low_zero {b : Word} (h : b.extractLsb' 0 3 = 0) :
    vldOffsetBits (b.toNat / 8) = b := by
  have hlow : b.toNat % 8 = 0 := by simpa using congrArg BitVec.toNat h
  rw [vldOffsetBits, mod32, Nat.div_mul_cancel (Nat.dvd_of_mod_eq_zero hlow), BitVec.ofNat_toNat,
    BitVec.setWidth_eq]

theorem runsWhenPlaced_vldOffset (s : State) {b : Word} (hwf : (Instr.vldOffset b).wf = true) :
    RunsWhenPlaced s (.vldOffset b) := by
  have hlow : b.extractLsb' 0 3 = 0 := by simpa [Instr.wf] using hwf
  exact step_standAt nofun (congrArg (some ∘ Instr.vldOffset) (vldOffsetBits_div_of_low_zero hlow))

/-! ## Start codes -/

/-- The buffer of a placed start code is the code's four bytes. -/
theorem bufBytes_standAtCode {s : State} (hs : MemInv s) (q : Request) (m : Byte) :
    bufBytes (s.standAtCode q m).mem { q with len := 4 } = [0, 0, 1, m] := by
  have h0 := Memory.wf_write hs q.bufVa 0#8
  have h1 := Memory.wf_write h0 (q.bufVa + 1) 0#8
  have h2 := Memory.wf_write h1 (q.bufVa + 2) 1#8
  simp [bufBytes, State.standAtCode, List.range_succ, Memory.read_write h2, Memory.read_write h1,
    Memory.read_write h0, Memory.read_write hs]

/-- The scanner of a placed start code stands at its marker, so the step runs the code. -/
theorem step_standAtCode {s : State} (hs : MemInv s) (q : Request) (m : Byte) :
    step (s.standAtCode q m) =
      exec (if qualifying m then .scQualifying m else .scNonqualifying m) (s.standAtCode q m).envTurn := by
  have hbuf : bufBytes (s.standAtCode q m).envTurn.mem { q with len := 4 } = [0, 0, 1, m] :=
    (envTurn_bufBytes rfl).trans (bufBytes_standAtCode hs q m)
  have hright : scannerRight [0, 0, 1, m] { i := 3, z := 2, hit := true } :=
    (scannerRight_hit rfl).mpr ⟨by simp, le_refl 2, le_refl 3, rfl, rfl, rfl, fun p _ => Nat.zero_le p⟩
  exact step_of_scan_marker rfl rfl rfl rfl (by rwa [hbuf]) (by rw [hbuf]; rfl)

/-- The marker's class, by which the decoder tells the two rows apart, also tells the step which to run. -/
theorem runsWhenPlaced_startCode {s : State} (hs : MemInv s) (m : Byte) :
    RunsWhenPlaced s (if qualifying m then .scQualifying m else .scNonqualifying m) := by
  have hplace : s.place (if qualifying m then .scQualifying m else .scNonqualifying m) =
      s.standAtCode (s.latch.getD Request.least) m := by
    split <;> rfl
  rw [RunsWhenPlaced, hplace]
  exact step_standAtCode hs _ m

/-! ## Table words -/

/-- A word that shares no bit with the low three has them zero. -/
theorem extract_low_of_and_seven {w : Word} (h : w &&& 0x00000007#32 = 0) : w.extractLsb' 0 3 = 0 := by
  have hand : w.extractLsb' 0 3 &&& (0x00000007#32).extractLsb' 0 3 = 0 := by
    rw [← BitVec.extractLsb'_and, h]
    rfl
  rwa [show (0x00000007#32).extractLsb' 0 3 = BitVec.allOnes 3 from rfl, BitVec.and_allOnes] at hand

/-- The mask that selects each row is what the row's operation needs to be well formed. -/
theorem runsWhenPlaced_decodeBare {s : State} (hs : MemInv s) (w : Word) :
    RunsWhenPlaced s (decodeBare w) := by
  unfold decodeBare
  split
  · exact runsWhenPlaced_startCode hs _
  split
  · exact runsWhenPlaced_iqIntra s _ _
  split
  · exact runsWhenPlaced_iqNonintra s _ _
  split
  · exact runsWhenPlaced_sizeMb s _ _
  split
  · next hmask =>
    exact runsWhenPlaced_sizePx s (encode_of_decodeWrite_frameSize (w := w) (if_neg (not_not.mpr hmask))).2
  split
  · exact runsWhenPlaced_modeEnter s w
  split
  · next hmask =>
    exact runsWhenPlaced_vldOffset s (decide_eq_true (extract_low_of_and_seven hmask))
  · exact runsWhenPlaced_picHdr s _

/-- Settles O10: the reset state has canonical memory, and the word's operation is what is placed. -/
theorem placedTableWordRunsFirst : Obligations.PlacedTableWordRunsFirst := by
  intro w i h
  have hbare : decodeBare (mod32 w) = i := by
    unfold decodeTableWord at h
    split at h
    · exact Option.some.inj h
    · cases h
  have hplace : State.reset.withFetchWord 32 w = State.reset.place i := by
    rw [State.withFetchWord, h]
  rw [hplace, ← hbare]
  exact runsWhenPlaced_decodeBare resetMeetsInvariants.1 _

end Sys2Proof.Machine
